-- ==== Sys2Proof/Word.lean ====
section
/-! DEFINITION. The word types of the machine: bytes, 32-bit words, register numbers
(00_scope.md R6, R13; 10_state.md R20, R24; 61_devices.md R397). -/

namespace Sys2Proof

/-- An 8-bit memory or device byte. -/
abbrev Byte := BitVec 8

/-- A 32-bit register value, address or instruction word (00_scope.md R6). -/
abbrev Word := BitVec 32

/-- The number of a general register, 0 to 31 (10_state.md R20). -/
abbrev Reg := Fin 32

/-- The number of a control register, 0 to 31 (10_state.md R24). -/
abbrev CtlReg := Fin 32

/-- The number of an interrupt line or of one bit of a 32-bit word, 0 to 31 (00_scope.md R6). -/
abbrev Line := Fin 32

/-- General register 29, the exception return-address register `ea` (10_state.md R22). -/
abbrev eaReg : Reg := 29

/-- General register 31, the link register `ra` (10_state.md R22). -/
abbrev raReg : Reg := 31

end Sys2Proof
end

