-- ==== Sys2Proof/Syntax.lean ====
section
/-! DEFINITION. The instructions: one constructor for each row of spec/opcode_table.json, with the
operands the assembler syntax names (30_encoding.md R113), in its order. Fields an instruction
does not use are not operands, because nothing depends on them (30_encoding.md R110; log 13). -/

namespace Sys2Proof

/-- An instruction of the machine (30_encoding.md R107, R108). -/
inductive Instr where
  -- Bitwise logic (40_logic.md)
  /-- `and rC, rA, rB` (R130). -/
  | and (rC rA rB : Reg)
  /-- `or rC, rA, rB` (R131). -/
  | or (rC rA rB : Reg)
  /-- `xor rC, rA, rB` (R132). -/
  | xor (rC rA rB : Reg)
  /-- `nor rC, rA, rB` (R133). -/
  | nor (rC rA rB : Reg)
  /-- `andi rB, rA, IMM16` (R134). -/
  | andi (rB rA : Reg) (imm16 : BitVec 16)
  /-- `ori rB, rA, IMM16` (R135). -/
  | ori (rB rA : Reg) (imm16 : BitVec 16)
  /-- `xori rB, rA, IMM16` (R136). -/
  | xori (rB rA : Reg) (imm16 : BitVec 16)
  /-- `andhi rB, rA, IMM16` (R137). -/
  | andhi (rB rA : Reg) (imm16 : BitVec 16)
  /-- `orhi rB, rA, IMM16` (R138). -/
  | orhi (rB rA : Reg) (imm16 : BitVec 16)
  /-- `xorhi rB, rA, IMM16` (R139). -/
  | xorhi (rB rA : Reg) (imm16 : BitVec 16)
  -- Add and subtract (41_add_sub.md)
  /-- `add rC, rA, rB` (R150). -/
  | add (rC rA rB : Reg)
  /-- `addi rB, rA, IMM16` (R151). -/
  | addi (rB rA : Reg) (imm16 : BitVec 16)
  /-- `sub rC, rA, rB` (R152). -/
  | sub (rC rA rB : Reg)
  -- Multiply and divide (42_multiply_divide.md)
  /-- `mul rC, rA, rB` (R160). -/
  | mul (rC rA rB : Reg)
  /-- `mulxss rC, rA, rB` (R161). -/
  | mulxss (rC rA rB : Reg)
  /-- `mulxsu rC, rA, rB` (R162). -/
  | mulxsu (rC rA rB : Reg)
  /-- `mulxuu rC, rA, rB` (R163). -/
  | mulxuu (rC rA rB : Reg)
  /-- `div rC, rA, rB` (R164). -/
  | div (rC rA rB : Reg)
  /-- `divu rC, rA, rB` (R165). -/
  | divu (rC rA rB : Reg)
  -- Compare (43_compare.md)
  /-- `cmpeq rC, rA, rB` (R180). -/
  | cmpeq (rC rA rB : Reg)
  /-- `cmpne rC, rA, rB` (R181). -/
  | cmpne (rC rA rB : Reg)
  /-- `cmpge rC, rA, rB` (R182). -/
  | cmpge (rC rA rB : Reg)
  /-- `cmpgeu rC, rA, rB` (R183). -/
  | cmpgeu (rC rA rB : Reg)
  /-- `cmplt rC, rA, rB` (R184). -/
  | cmplt (rC rA rB : Reg)
  /-- `cmpltu rC, rA, rB` (R185). -/
  | cmpltu (rC rA rB : Reg)
  /-- `cmpeqi rB, rA, IMM16` (R186). -/
  | cmpeqi (rB rA : Reg) (imm16 : BitVec 16)
  /-- `cmpnei rB, rA, IMM16` (R187). -/
  | cmpnei (rB rA : Reg) (imm16 : BitVec 16)
  /-- `cmpgei rB, rA, IMM16` (R188). -/
  | cmpgei (rB rA : Reg) (imm16 : BitVec 16)
  /-- `cmpgeui rB, rA, IMM16` (R189). -/
  | cmpgeui (rB rA : Reg) (imm16 : BitVec 16)
  /-- `cmplti rB, rA, IMM16` (R190). -/
  | cmplti (rB rA : Reg) (imm16 : BitVec 16)
  /-- `cmpltui rB, rA, IMM16` (R191). -/
  | cmpltui (rB rA : Reg) (imm16 : BitVec 16)
  -- Shift and rotate (44_shift_rotate.md)
  /-- `rol rC, rA, rB` (R200). -/
  | rol (rC rA rB : Reg)
  /-- `roli rC, rA, IMM5` (R201). -/
  | roli (rC rA : Reg) (imm5 : BitVec 5)
  /-- `ror rC, rA, rB` (R202). -/
  | ror (rC rA rB : Reg)
  /-- `sll rC, rA, rB` (R203). -/
  | sll (rC rA rB : Reg)
  /-- `slli rC, rA, IMM5` (R204). -/
  | slli (rC rA : Reg) (imm5 : BitVec 5)
  /-- `srl rC, rA, rB` (R205). -/
  | srl (rC rA rB : Reg)
  /-- `srli rC, rA, IMM5` (R206). -/
  | srli (rC rA : Reg) (imm5 : BitVec 5)
  /-- `sra rC, rA, rB` (R207). -/
  | sra (rC rA rB : Reg)
  /-- `srai rC, rA, IMM5` (R208). -/
  | srai (rC rA : Reg) (imm5 : BitVec 5)
  -- Control transfer (45_control_flow.md)
  /-- `jmp rA` (R220). -/
  | jmp (rA : Reg)
  /-- `jmpi label` (R221). -/
  | jmpi (imm26 : BitVec 26)
  /-- `br label` (R222). -/
  | br (imm16 : BitVec 16)
  /-- `call label` (R224). -/
  | call (imm26 : BitVec 26)
  /-- `callr rA` (R225). -/
  | callr (rA : Reg)
  /-- `beq rA, rB, label` (R226). -/
  | beq (rA rB : Reg) (imm16 : BitVec 16)
  /-- `bne rA, rB, label` (R227). -/
  | bne (rA rB : Reg) (imm16 : BitVec 16)
  /-- `bge rA, rB, label` (R228). -/
  | bge (rA rB : Reg) (imm16 : BitVec 16)
  /-- `bgeu rA, rB, label` (R229). -/
  | bgeu (rA rB : Reg) (imm16 : BitVec 16)
  /-- `blt rA, rB, label` (R230). -/
  | blt (rA rB : Reg) (imm16 : BitVec 16)
  /-- `bltu rA, rB, label` (R231). -/
  | bltu (rA rB : Reg) (imm16 : BitVec 16)
  /-- `ret` (R232). -/
  | ret
  /-- `eret` (R233). -/
  | eret
  /-- `bret` (R234). -/
  | bret
  -- Control registers and system (46_control_regs_system.md)
  /-- `rdctl rC, ctlN` (R250). -/
  | rdctl (rC : Reg) (n : CtlReg)
  /-- `wrctl ctlN, rA` (R251). -/
  | wrctl (n : CtlReg) (rA : Reg)
  /-- `sync` (R252). -/
  | sync
  /-- `flushp` (R253). -/
  | flushp
  /-- `flushi rA` (R254). -/
  | flushi (rA : Reg)
  /-- `flushd IMM16(rA)` (R255). -/
  | flushd (rA : Reg) (imm16 : BitVec 16)
  /-- `flushda IMM16(rA)` (R256). -/
  | flushda (rA : Reg) (imm16 : BitVec 16)
  /-- `initi rA` (R257). -/
  | initi (rA : Reg)
  /-- `initd IMM16(rA)` (R258). -/
  | initd (rA : Reg) (imm16 : BitVec 16)
  /-- `initda IMM16(rA)` (R259). -/
  | initda (rA : Reg) (imm16 : BitVec 16)
  /-- `custom N, rC, rA, rB` (R264); `n` is the word's bits 16:6, which nothing reads. -/
  | custom (n : BitVec 11) (rC rA rB : Reg)
  /-- `rdprs rB, rA, IMM16` (R265). -/
  | rdprs (rB rA : Reg) (imm16 : BitVec 16)
  /-- `wrprs rC, rA` (R266). -/
  | wrprs (rC rA : Reg)
  /-- `muli rB, rA, IMM16` (R267). -/
  | muli (rB rA : Reg) (imm16 : BitVec 16)
  /-- `nextpc rC` (R268). -/
  | nextpc (rC : Reg)
  /-- `trap` (R269). -/
  | trap
  /-- `break` (R270). -/
  | brk
  -- Loads and stores (47_load_store.md)
  /-- `ldb rB, IMM16(rA)` (R281). -/
  | ldb (rB rA : Reg) (imm16 : BitVec 16)
  /-- `ldbu rB, IMM16(rA)` (R282). -/
  | ldbu (rB rA : Reg) (imm16 : BitVec 16)
  /-- `ldh rB, IMM16(rA)` (R283). -/
  | ldh (rB rA : Reg) (imm16 : BitVec 16)
  /-- `ldhu rB, IMM16(rA)` (R284). -/
  | ldhu (rB rA : Reg) (imm16 : BitVec 16)
  /-- `ldw rB, IMM16(rA)` (R285). -/
  | ldw (rB rA : Reg) (imm16 : BitVec 16)
  /-- `ldbio rB, IMM16(rA)` (R286). -/
  | ldbio (rB rA : Reg) (imm16 : BitVec 16)
  /-- `ldbuio rB, IMM16(rA)` (R287). -/
  | ldbuio (rB rA : Reg) (imm16 : BitVec 16)
  /-- `ldhio rB, IMM16(rA)` (R288). -/
  | ldhio (rB rA : Reg) (imm16 : BitVec 16)
  /-- `ldhuio rB, IMM16(rA)` (R289). -/
  | ldhuio (rB rA : Reg) (imm16 : BitVec 16)
  /-- `ldwio rB, IMM16(rA)` (R290). -/
  | ldwio (rB rA : Reg) (imm16 : BitVec 16)
  /-- `stb rB, IMM16(rA)` (R291). -/
  | stb (rB rA : Reg) (imm16 : BitVec 16)
  /-- `sth rB, IMM16(rA)` (R292). -/
  | sth (rB rA : Reg) (imm16 : BitVec 16)
  /-- `stw rB, IMM16(rA)` (R293). -/
  | stw (rB rA : Reg) (imm16 : BitVec 16)
  /-- `stbio rB, IMM16(rA)` (R294). -/
  | stbio (rB rA : Reg) (imm16 : BitVec 16)
  /-- `sthio rB, IMM16(rA)` (R295). -/
  | sthio (rB rA : Reg) (imm16 : BitVec 16)
  /-- `stwio rB, IMM16(rA)` (R296). -/
  | stwio (rB rA : Reg) (imm16 : BitVec 16)
deriving DecidableEq, Repr

end Sys2Proof
end

