-- ==== Sys2Proof/Decode.lean ====
section
/-! DEFINITION. The instruction decoder and, after it, the encoder (30_encoding.md R100 to R112).
The decoder is a total function of a 32-bit word; a word that is no instruction is rejected by the
name of the field that is unassigned (R109). All opcode numbers are those of R107 and R108. -/

namespace Sys2Proof

/-! ## The fields of an instruction word (R101) -/

/-- `OP` = `iw[5:0]`. -/
def opField (w : Word) : BitVec 6 := w.extractLsb' 0 6

/-- `IMM5` = `iw[10:6]`: shift amount or control-register number. -/
def imm5Field (w : Word) : BitVec 5 := w.extractLsb' 6 5

/-- `OPX` = `iw[16:11]`. -/
def opxField (w : Word) : BitVec 6 := w.extractLsb' 11 6

/-- `C` = `iw[21:17]`. -/
def cField (w : Word) : Reg := (w.extractLsb' 17 5).toFin

/-- `B` = `iw[26:22]`. -/
def bField (w : Word) : Reg := (w.extractLsb' 22 5).toFin

/-- `A` = `iw[31:27]`. -/
def aField (w : Word) : Reg := (w.extractLsb' 27 5).toFin

/-- `IMM16` = `iw[21:6]`. -/
def imm16Field (w : Word) : BitVec 16 := w.extractLsb' 6 16

/-- `IMM26` = `iw[31:6]`. -/
def imm26Field (w : Word) : BitVec 26 := w.extractLsb' 6 26

/-- The number of the control register that `IMM5` names (R106). -/
def ctlField (w : Word) : CtlReg := (imm5Field w).toFin

/-- The bits 16:6 of a `custom` word, which no rule reads. -/
def customField (w : Word) : BitVec 11 := w.extractLsb' 6 11

/-! ## Decoding (R105) -/

/-- Why a byte sequence is not an instruction. -/
inductive DecodeError where
  /-- `OP` is one of the unassigned values (R109). -/
  | unassignedOp (op : BitVec 6)
  /-- `OP` = 0x3A and `OPX` is one of the unassigned values (R109). -/
  | unassignedOpx (opx : BitVec 6)
  /-- Fewer than the four bytes of a word were given; a fetch always gives four (R100). -/
  | truncated
deriving DecidableEq, Repr

/-- The R-type map: the instruction that `OPX` selects (R108). -/
def decodeRType (opx : BitVec 6) (w : Word) : Except DecodeError Instr :=
  match opx with
  | 0x01#6 => .ok .eret
  | 0x02#6 => .ok (.roli (cField w) (aField w) (imm5Field w))
  | 0x03#6 => .ok (.rol (cField w) (aField w) (bField w))
  | 0x04#6 => .ok .flushp
  | 0x05#6 => .ok .ret
  | 0x06#6 => .ok (.nor (cField w) (aField w) (bField w))
  | 0x07#6 => .ok (.mulxuu (cField w) (aField w) (bField w))
  | 0x08#6 => .ok (.cmpge (cField w) (aField w) (bField w))
  | 0x09#6 => .ok .bret
  | 0x0B#6 => .ok (.ror (cField w) (aField w) (bField w))
  | 0x0C#6 => .ok (.flushi (aField w))
  | 0x0D#6 => .ok (.jmp (aField w))
  | 0x0E#6 => .ok (.and (cField w) (aField w) (bField w))
  | 0x10#6 => .ok (.cmplt (cField w) (aField w) (bField w))
  | 0x12#6 => .ok (.slli (cField w) (aField w) (imm5Field w))
  | 0x13#6 => .ok (.sll (cField w) (aField w) (bField w))
  | 0x14#6 => .ok (.wrprs (cField w) (aField w))
  | 0x16#6 => .ok (.or (cField w) (aField w) (bField w))
  | 0x17#6 => .ok (.mulxsu (cField w) (aField w) (bField w))
  | 0x18#6 => .ok (.cmpne (cField w) (aField w) (bField w))
  | 0x1A#6 => .ok (.srli (cField w) (aField w) (imm5Field w))
  | 0x1B#6 => .ok (.srl (cField w) (aField w) (bField w))
  | 0x1C#6 => .ok (.nextpc (cField w))
  | 0x1D#6 => .ok (.callr (aField w))
  | 0x1E#6 => .ok (.xor (cField w) (aField w) (bField w))
  | 0x1F#6 => .ok (.mulxss (cField w) (aField w) (bField w))
  | 0x20#6 => .ok (.cmpeq (cField w) (aField w) (bField w))
  | 0x24#6 => .ok (.divu (cField w) (aField w) (bField w))
  | 0x25#6 => .ok (.div (cField w) (aField w) (bField w))
  | 0x26#6 => .ok (.rdctl (cField w) (ctlField w))
  | 0x27#6 => .ok (.mul (cField w) (aField w) (bField w))
  | 0x28#6 => .ok (.cmpgeu (cField w) (aField w) (bField w))
  | 0x29#6 => .ok (.initi (aField w))
  | 0x2D#6 => .ok .trap
  | 0x2E#6 => .ok (.wrctl (ctlField w) (aField w))
  | 0x30#6 => .ok (.cmpltu (cField w) (aField w) (bField w))
  | 0x31#6 => .ok (.add (cField w) (aField w) (bField w))
  | 0x34#6 => .ok .brk
  | 0x36#6 => .ok .sync
  | 0x39#6 => .ok (.sub (cField w) (aField w) (bField w))
  | 0x3A#6 => .ok (.srai (cField w) (aField w) (imm5Field w))
  | 0x3B#6 => .ok (.sra (cField w) (aField w) (bField w))
  | other => .error (.unassignedOpx other)

/-- The opcode map: the instruction that `OP` selects, or the R-type map for 0x3A (R105, R107). -/
def decodeOp (op : BitVec 6) (w : Word) : Except DecodeError Instr :=
  match op with
  | 0x00#6 => .ok (.call (imm26Field w))
  | 0x01#6 => .ok (.jmpi (imm26Field w))
  | 0x03#6 => .ok (.ldbu (bField w) (aField w) (imm16Field w))
  | 0x04#6 => .ok (.addi (bField w) (aField w) (imm16Field w))
  | 0x05#6 => .ok (.stb (bField w) (aField w) (imm16Field w))
  | 0x06#6 => .ok (.br (imm16Field w))
  | 0x07#6 => .ok (.ldb (bField w) (aField w) (imm16Field w))
  | 0x08#6 => .ok (.cmpgei (bField w) (aField w) (imm16Field w))
  | 0x0B#6 => .ok (.ldhu (bField w) (aField w) (imm16Field w))
  | 0x0C#6 => .ok (.andi (bField w) (aField w) (imm16Field w))
  | 0x0D#6 => .ok (.sth (bField w) (aField w) (imm16Field w))
  | 0x0E#6 => .ok (.bge (aField w) (bField w) (imm16Field w))
  | 0x0F#6 => .ok (.ldh (bField w) (aField w) (imm16Field w))
  | 0x10#6 => .ok (.cmplti (bField w) (aField w) (imm16Field w))
  | 0x13#6 => .ok (.initda (aField w) (imm16Field w))
  | 0x14#6 => .ok (.ori (bField w) (aField w) (imm16Field w))
  | 0x15#6 => .ok (.stw (bField w) (aField w) (imm16Field w))
  | 0x16#6 => .ok (.blt (aField w) (bField w) (imm16Field w))
  | 0x17#6 => .ok (.ldw (bField w) (aField w) (imm16Field w))
  | 0x18#6 => .ok (.cmpnei (bField w) (aField w) (imm16Field w))
  | 0x1B#6 => .ok (.flushda (aField w) (imm16Field w))
  | 0x1C#6 => .ok (.xori (bField w) (aField w) (imm16Field w))
  | 0x1E#6 => .ok (.bne (aField w) (bField w) (imm16Field w))
  | 0x20#6 => .ok (.cmpeqi (bField w) (aField w) (imm16Field w))
  | 0x23#6 => .ok (.ldbuio (bField w) (aField w) (imm16Field w))
  | 0x24#6 => .ok (.muli (bField w) (aField w) (imm16Field w))
  | 0x25#6 => .ok (.stbio (bField w) (aField w) (imm16Field w))
  | 0x26#6 => .ok (.beq (aField w) (bField w) (imm16Field w))
  | 0x27#6 => .ok (.ldbio (bField w) (aField w) (imm16Field w))
  | 0x28#6 => .ok (.cmpgeui (bField w) (aField w) (imm16Field w))
  | 0x2B#6 => .ok (.ldhuio (bField w) (aField w) (imm16Field w))
  | 0x2C#6 => .ok (.andhi (bField w) (aField w) (imm16Field w))
  | 0x2D#6 => .ok (.sthio (bField w) (aField w) (imm16Field w))
  | 0x2E#6 => .ok (.bgeu (aField w) (bField w) (imm16Field w))
  | 0x2F#6 => .ok (.ldhio (bField w) (aField w) (imm16Field w))
  | 0x30#6 => .ok (.cmpltui (bField w) (aField w) (imm16Field w))
  | 0x32#6 => .ok (.custom (customField w) (cField w) (aField w) (bField w))
  | 0x33#6 => .ok (.initd (aField w) (imm16Field w))
  | 0x34#6 => .ok (.orhi (bField w) (aField w) (imm16Field w))
  | 0x35#6 => .ok (.stwio (bField w) (aField w) (imm16Field w))
  | 0x36#6 => .ok (.bltu (aField w) (bField w) (imm16Field w))
  | 0x37#6 => .ok (.ldwio (bField w) (aField w) (imm16Field w))
  | 0x38#6 => .ok (.rdprs (bField w) (aField w) (imm16Field w))
  | 0x3A#6 => decodeRType (opxField w) w
  | 0x3B#6 => .ok (.flushd (aField w) (imm16Field w))
  | 0x3C#6 => .ok (.xorhi (bField w) (aField w) (imm16Field w))
  | other => .error (.unassignedOp other)

/-- The decoder: a pure function of a 32-bit word (R100, R105). -/
def decodeWord (w : Word) : Except DecodeError Instr :=
  decodeOp (opField w) w

/-- The word that four bytes make, the first the least significant (20_memory.md R68). -/
def wordOfBytes (b0 b1 b2 b3 : Byte) : Word := b3 ++ b2 ++ b1 ++ b0

/-- The four bytes of a word in memory order (20_memory.md R68). -/
def bytesOfWord (w : Word) : List Byte :=
  [w.extractLsb' 0 8, w.extractLsb' 8 8, w.extractLsb' 16 8, w.extractLsb' 24 8]

/-- Decode the instruction at the front of a byte sequence and give back the rest (R100). -/
def decodeBytes : List Byte → Except DecodeError (Instr × List Byte)
  | b0 :: b1 :: b2 :: b3 :: rest =>
    match decodeWord (wordOfBytes b0 b1 b2 b3) with
    | .ok i => .ok (i, rest)
    | .error e => .error e
  | _ => .error .truncated

/-- The instruction the decoder reads from an instruction whose bits are `w`, of which the opcode
table gives `nbits`: the bits above them are 0, and the word is laid out in memory order. -/
def decodeTableWord (nbits w : Nat) : Option Instr :=
  match decodeBytes (bytesOfWord (BitVec.ofNat 32 (w % 2 ^ nbits))) with
  | .ok (i, _) => some i
  | .error _ => none

/-! ## Encoding (R102, R103, R104) -/

/-- The bits of a register field. -/
def regBits (r : Reg) : BitVec 5 := BitVec.ofFin r

/-- An I-type word (R102). -/
def encodeIType (op : BitVec 6) (a b : Reg) (imm16 : BitVec 16) : Word :=
  regBits a ++ regBits b ++ imm16 ++ op

/-- An R-type word (R103). -/
def encodeRType (opx : BitVec 6) (a b c : Reg) (imm5 : BitVec 5) : Word :=
  regBits a ++ regBits b ++ regBits c ++ opx ++ imm5 ++ 0x3A#6

/-- A J-type word (R104). -/
def encodeJType (op : BitVec 6) (imm26 : BitVec 26) : Word :=
  imm26 ++ op

/-- A `custom` word: the fields A, B, C and the eleven bits 16:6 (95_test_vectors.md Part 2). -/
def encodeCustom (op : BitVec 6) (a b c : Reg) (n : BitVec 11) : Word :=
  regBits a ++ regBits b ++ regBits c ++ n ++ op

/-- The standard assembler's word for an instruction: 0 in an unused field, but for the fixed
registers it puts in `ret`, `eret`, `bret`, `callr`, `trap` and `break` (30_encoding.md R113;
95_test_vectors.md Part 2). -/
def encode : Instr → Word
  | .and rC rA rB => encodeRType 0x0E#6 rA rB rC 0#5
  | .or rC rA rB => encodeRType 0x16#6 rA rB rC 0#5
  | .xor rC rA rB => encodeRType 0x1E#6 rA rB rC 0#5
  | .nor rC rA rB => encodeRType 0x06#6 rA rB rC 0#5
  | .andi rB rA imm16 => encodeIType 0x0C#6 rA rB imm16
  | .ori rB rA imm16 => encodeIType 0x14#6 rA rB imm16
  | .xori rB rA imm16 => encodeIType 0x1C#6 rA rB imm16
  | .andhi rB rA imm16 => encodeIType 0x2C#6 rA rB imm16
  | .orhi rB rA imm16 => encodeIType 0x34#6 rA rB imm16
  | .xorhi rB rA imm16 => encodeIType 0x3C#6 rA rB imm16
  | .add rC rA rB => encodeRType 0x31#6 rA rB rC 0#5
  | .addi rB rA imm16 => encodeIType 0x04#6 rA rB imm16
  | .sub rC rA rB => encodeRType 0x39#6 rA rB rC 0#5
  | .mul rC rA rB => encodeRType 0x27#6 rA rB rC 0#5
  | .mulxss rC rA rB => encodeRType 0x1F#6 rA rB rC 0#5
  | .mulxsu rC rA rB => encodeRType 0x17#6 rA rB rC 0#5
  | .mulxuu rC rA rB => encodeRType 0x07#6 rA rB rC 0#5
  | .div rC rA rB => encodeRType 0x25#6 rA rB rC 0#5
  | .divu rC rA rB => encodeRType 0x24#6 rA rB rC 0#5
  | .cmpeq rC rA rB => encodeRType 0x20#6 rA rB rC 0#5
  | .cmpne rC rA rB => encodeRType 0x18#6 rA rB rC 0#5
  | .cmpge rC rA rB => encodeRType 0x08#6 rA rB rC 0#5
  | .cmpgeu rC rA rB => encodeRType 0x28#6 rA rB rC 0#5
  | .cmplt rC rA rB => encodeRType 0x10#6 rA rB rC 0#5
  | .cmpltu rC rA rB => encodeRType 0x30#6 rA rB rC 0#5
  | .cmpeqi rB rA imm16 => encodeIType 0x20#6 rA rB imm16
  | .cmpnei rB rA imm16 => encodeIType 0x18#6 rA rB imm16
  | .cmpgei rB rA imm16 => encodeIType 0x08#6 rA rB imm16
  | .cmpgeui rB rA imm16 => encodeIType 0x28#6 rA rB imm16
  | .cmplti rB rA imm16 => encodeIType 0x10#6 rA rB imm16
  | .cmpltui rB rA imm16 => encodeIType 0x30#6 rA rB imm16
  | .rol rC rA rB => encodeRType 0x03#6 rA rB rC 0#5
  | .roli rC rA imm5 => encodeRType 0x02#6 rA 0 rC imm5
  | .ror rC rA rB => encodeRType 0x0B#6 rA rB rC 0#5
  | .sll rC rA rB => encodeRType 0x13#6 rA rB rC 0#5
  | .slli rC rA imm5 => encodeRType 0x12#6 rA 0 rC imm5
  | .srl rC rA rB => encodeRType 0x1B#6 rA rB rC 0#5
  | .srli rC rA imm5 => encodeRType 0x1A#6 rA 0 rC imm5
  | .sra rC rA rB => encodeRType 0x3B#6 rA rB rC 0#5
  | .srai rC rA imm5 => encodeRType 0x3A#6 rA 0 rC imm5
  | .jmp rA => encodeRType 0x0D#6 rA 0 0 0#5
  | .jmpi imm26 => encodeJType 0x01#6 imm26
  | .br imm16 => encodeIType 0x06#6 0 0 imm16
  | .call imm26 => encodeJType 0x00#6 imm26
  | .callr rA => encodeRType 0x1D#6 rA 0 31 0#5
  | .beq rA rB imm16 => encodeIType 0x26#6 rA rB imm16
  | .bne rA rB imm16 => encodeIType 0x1E#6 rA rB imm16
  | .bge rA rB imm16 => encodeIType 0x0E#6 rA rB imm16
  | .bgeu rA rB imm16 => encodeIType 0x2E#6 rA rB imm16
  | .blt rA rB imm16 => encodeIType 0x16#6 rA rB imm16
  | .bltu rA rB imm16 => encodeIType 0x36#6 rA rB imm16
  | .ret => encodeRType 0x05#6 31 0 0 0#5
  | .eret => encodeRType 0x01#6 29 30 0 0#5
  | .bret => encodeRType 0x09#6 30 0 30 0#5
  | .rdctl rC n => encodeRType 0x26#6 0 0 rC (regBits n)
  | .wrctl n rA => encodeRType 0x2E#6 rA 0 0 (regBits n)
  | .sync => encodeRType 0x36#6 0 0 0 0#5
  | .flushp => encodeRType 0x04#6 0 0 0 0#5
  | .flushi rA => encodeRType 0x0C#6 rA 0 0 0#5
  | .flushd rA imm16 => encodeIType 0x3B#6 rA 0 imm16
  | .flushda rA imm16 => encodeIType 0x1B#6 rA 0 imm16
  | .initi rA => encodeRType 0x29#6 rA 0 0 0#5
  | .initd rA imm16 => encodeIType 0x33#6 rA 0 imm16
  | .initda rA imm16 => encodeIType 0x13#6 rA 0 imm16
  | .custom n rC rA rB => encodeCustom 0x32#6 rA rB rC n
  | .rdprs rB rA imm16 => encodeIType 0x38#6 rA rB imm16
  | .wrprs rC rA => encodeRType 0x14#6 rA 0 rC 0#5
  | .muli rB rA imm16 => encodeIType 0x24#6 rA rB imm16
  | .nextpc rC => encodeRType 0x1C#6 0 0 rC 0#5
  | .trap => encodeRType 0x2D#6 0 0 29 0#5
  | .brk => encodeRType 0x34#6 0 0 30 0#5
  | .ldb rB rA imm16 => encodeIType 0x07#6 rA rB imm16
  | .ldbu rB rA imm16 => encodeIType 0x03#6 rA rB imm16
  | .ldh rB rA imm16 => encodeIType 0x0F#6 rA rB imm16
  | .ldhu rB rA imm16 => encodeIType 0x0B#6 rA rB imm16
  | .ldw rB rA imm16 => encodeIType 0x17#6 rA rB imm16
  | .ldbio rB rA imm16 => encodeIType 0x27#6 rA rB imm16
  | .ldbuio rB rA imm16 => encodeIType 0x23#6 rA rB imm16
  | .ldhio rB rA imm16 => encodeIType 0x2F#6 rA rB imm16
  | .ldhuio rB rA imm16 => encodeIType 0x2B#6 rA rB imm16
  | .ldwio rB rA imm16 => encodeIType 0x37#6 rA rB imm16
  | .stb rB rA imm16 => encodeIType 0x05#6 rA rB imm16
  | .sth rB rA imm16 => encodeIType 0x0D#6 rA rB imm16
  | .stw rB rA imm16 => encodeIType 0x15#6 rA rB imm16
  | .stbio rB rA imm16 => encodeIType 0x25#6 rA rB imm16
  | .sthio rB rA imm16 => encodeIType 0x2D#6 rA rB imm16
  | .stwio rB rA imm16 => encodeIType 0x35#6 rA rB imm16

end Sys2Proof
end

