-- ==== Sys2Proof/Config.lean ====
section
/-! DEFINITION. What a configuration of the machine fixes, apart from the bus regions and
their devices, which stand in Machine/State.lean (00_scope.md R7, R8, R9), and the one free
value of the model (93_implementation_defined.md U1). -/

namespace Sys2Proof

/-- The two behaviours of an instruction the source does not name (00_scope.md R9). -/
inductive UnlistedChoice where
  /-- The unimplemented-instruction exception, the spec's default. -/
  | exception
  /-- The behaviour of the architecture, as 46_control_regs_system.md R267 to R270 give it. -/
  | architectural
deriving DecidableEq, Repr

/-- The parameter `UNLISTED_OPS`, one choice for each of the four mnemonics (00_scope.md R9). -/
structure UnlistedOps where
  muli : UnlistedChoice
  nextpc : UnlistedChoice
  trap : UnlistedChoice
  brk : UnlistedChoice
deriving DecidableEq, Repr

/-- What an instruction fetch from a region that is not RAM does (20_memory.md R75; U4).
DESIGN CHOICE, log 9: the spec gives the fetch a meaning and says a model should refuse it, so
the model takes the treatment as a parameter. -/
inductive DeviceFetch where
  /-- An ordinary device read with its side effects, as R75 and R72 give it. -/
  | asRead
  /-- The treatment U4 recommends: the step is refused. -/
  | refuse
deriving DecidableEq, Repr

/-- The configuration and host parameters that no instruction changes (00_scope.md R7 to R9). -/
structure Config where
  /-- `RESET_ADDR`. -/
  resetAddr : Word
  /-- `EXC_ADDR`, the one exception vector (20_memory.md R77). -/
  excAddr : Word
  /-- `CPU_FREQ`; read by no rule (D26). -/
  cpuFreq : Nat
  /-- `TRACE_ENABLED` (20_memory.md R66). -/
  traceEnabled : Bool
  /-- `STMT_ADDRS`, the source-statement boundaries (00_scope.md R8). -/
  stmtAddrs : List Word
  /-- `UNLISTED_OPS`. -/
  unlisted : UnlistedOps
  /-- The treatment of a fetch from a device (log 9). -/
  deviceFetch : DeviceFetch
deriving DecidableEq, Repr

/-- FREE VALUE (DESIGN CHOICE, log 6). The quotient that signed `div` writes for 0x80000000 by
0xFFFFFFFF, at the n-th time this happens: the spec gives it no value and lets a model take any
value (42_multiply_divide.md R164; 93_implementation_defined.md U1). It has no body, so nothing
can be proved of it. -/
opaque Config.divOverflowQuotient : Nat → Word

end Sys2Proof
end

