-- ==== Sys2Proof/Machine/State.lean ====
section
/-! DEFINITION. The machine's state as plain data, the reasons a step stops, and the state after
reset (10_state.md; 61_devices.md R360 to R410; 62_debug_stepping.md R437). -/

namespace Sys2Proof.Machine

/-! ## Small closed types -/

/-- The width of an access: 8, 16 or 32 bits (20_memory.md R73). -/
inductive Size where
  | byte
  | half
  | word
deriving DecidableEq, Repr

/-- The width of an access in bits, as a fatal-error record names it (10_state.md R33). -/
def Size.bits : Size → Nat
  | .byte => 8
  | .half => 16
  | .word => 32

/-- What an access is, in a trace record or a fatal-error record (00_scope.md R11; 10_state.md R33). -/
inductive AccessKind where
  | fetch
  | load
  | store
deriving DecidableEq, Repr

/-- The two kinds of fatal error (10_state.md R33). -/
inductive FatalKind where
  | misalignedAccess
  | invalidAddress
deriving DecidableEq, Repr

/-- A fatal-error record (10_state.md R33; 60_exceptions.md R322). `data` is present for stores:
the n-bit value, zero-extended (log 25). -/
structure FatalError where
  kind : FatalKind
  addr : Word
  size : Size
  direction : AccessKind
  data : Option Word
deriving DecidableEq, Repr

/-- Whether the CPU issues instructions (10_state.md R32). -/
inductive RunState where
  | run
  | halted
  | resuming
deriving DecidableEq, Repr

/-- The mode of the stepping controller (10_state.md R35; 62_debug_stepping.md R437). -/
inductive DebuggingState where
  | continue_
  | stepInto
  | stepOver
  | stepReturn
  | stepInstruction
deriving DecidableEq, Repr

/-! ## Devices -/

/-- A Timer's configuration (00_scope.md R7). -/
structure TimerParams where
  periodInit : Word
  alwaysRun : Bool
  fixedPeriod : Bool
  hasSnapshot : Bool
deriving DecidableEq, Repr

/-- A Timer's state (10_state.md R38; 61_devices.md R361). -/
structure TimerState where
  period : Word
  counter : Word
  /-- `ITO`, interrupt enable on timeout. -/
  ito : Bool
  /-- `CONT`, continuous mode. -/
  cont : Bool
  /-- `TO`, timeout occurred. -/
  timeout : Bool
  /-- `RUN`, currently counting. -/
  run : Bool
  /-- The internal flag that gates OnClock. -/
  counting : Bool
  snapshot : Word
deriving DecidableEq, Repr

/-- The state of a SerialPort or a DebugChannel (10_state.md R39). -/
structure SerialState where
  /-- Pending input, oldest byte first. -/
  fifo : List Byte
  rxIrqEn : Bool
  txIrqEn : Bool
  txPending : Bool
deriving DecidableEq, Repr

/-- The direction tag of a ParallelIO (61_devices.md R393). -/
inductive Direction where
  | input
  | output
deriving DecidableEq, Repr

/-- A ParallelIO's state (10_state.md R40). -/
structure PioState where
  data : Word
  irqMask : Word
  edgeCapture : Word
deriving DecidableEq, Repr

/-- A CharacterDisplay's state (10_state.md R41). -/
structure LcdState where
  text : List Byte
  cursor : Nat
deriving DecidableEq, Repr

/-- A device behind the bus: its kind, its configuration and its state (61_devices.md R350). The
bytes of every RAM stand in `State.mem`. -/
inductive Device where
  | ram
  | timer (p : TimerParams) (t : TimerState)
  | serialPort (st : SerialState)
  | debugChannel (st : SerialState)
  | parallelIO (dir : Direction) (p : PioState)
  | characterDisplay (len : Nat) (l : LcdState)
deriving DecidableEq, Repr

/-- A region of the bus: base address, byte span, the optional interrupt line of its device, the
device's name (a mapping key only) and the device (20_memory.md R60; 00_scope.md R7). A device
stands in its region, so it is referenced by exactly one (R63 (c)). -/
structure Region where
  name : String
  base : Word
  span : Nat
  irq : Option Line
  dev : Device
deriving DecidableEq, Repr

/-! ## Output events -/

/-- What the machine emits (00_scope.md R11). A device is named by the index of its region in
configuration order (log 12). -/
inductive Event where
  /-- One byte written by the program to a serial-like channel. -/
  | charOut (dev : Nat) (b : Byte)
  /-- The whole text buffer of a CharacterDisplay. -/
  | lcdText (dev : Nat) (text : List Byte)
  /-- One bit of an out-direction ParallelIO. -/
  | pioOut (dev : Nat) (bit : Nat) (value : Bool)
  /-- One record for a non-io bus access. -/
  | trace (kind : AccessKind) (addr : Word)
  /-- The CPU was suspended before fetching the instruction at this address. -/
  | haltNotify (addr : Word)
  /-- A fatal memory-access error. -/
  | fatalNotify (err : FatalError)
deriving DecidableEq, Repr

/-! ## The state -/

/-- RAM contents: address and byte, addresses strictly rising, no byte equal to 0, which is what
an unlisted address reads as (DESIGN CHOICE, log 3). -/
abbrev Memory := List Host.Cell

/-- Breakpoint reference counts: address and count, addresses strictly rising, no count equal
to 0, which is the count of an unlisted address (62_debug_stepping.md R430). -/
abbrev Breakpoints := List (Nat × Nat)

/-- Everything the machine holds (10_state.md), with its configuration (log 1). -/
structure State where
  /-- The configuration; no step changes it (00_scope.md R7 to R9; log 1). -/
  cfg : Config
  /-- The regions in configuration order, each with its device's state (20_memory.md R60). -/
  bus : List Region
  /-- The general registers `x[0]` to `x[31]` (R20). -/
  regs : Vector Word 32
  /-- The program counter (R23). -/
  pc : Word
  /-- The stored control registers (R24 to R29); cell 4 stands for no register (log 18). -/
  ctl : Vector Word 32
  /-- The pending-interrupt word (R31). -/
  irq : Word
  /-- R32. -/
  runState : RunState
  /-- R33. -/
  fatal : Option FatalError
  /-- The global clock counter (R34). -/
  clock : Nat
  /-- R35. -/
  debuggingState : DebuggingState
  /-- The call depth (R35). -/
  callStackSize : Int
  /-- The depth snapshot of StepOver and StepReturn (R35). -/
  stepFrame : Int
  /-- R36. -/
  bp : Breakpoints
  /-- The bytes of every RAM region, by address (R37). -/
  mem : Memory
  /-- MODEL'S OWN: the output events so far, oldest first (00_scope.md R11; log 12). -/
  out : List Event
  /-- MODEL'S OWN: how many free values have been used (log 6). -/
  freeCount : Nat
  /-- MODEL'S OWN: a Step has been run since power-on, Reset or LoadImage (R30; log 14). -/
  started : Bool
deriving DecidableEq, Repr

/-- Faults. The spec's own faults, the fatal errors of 60_exceptions.md R322, are recorded in
`State.fatal` and leave a state that only Reset leaves (R310, R33), so they are next states and
this type has no constructor (log 5). Nothing raises it; safe. -/
inductive Fault where
deriving DecidableEq, Repr

/-- Refusals: the situations to which the spec gives no meaning. Each is safe: the model stops
where the reference program does something unknown. -/
inductive Refusal where
  /-- An instruction that has no meaning in the model; no arm of `exec` raises it. Safe. -/
  | notModelled (mnemonic : String)
  /-- The configuration does not meet 20_memory.md R63 (U7, U8); raised by a step. Safe. -/
  | illFormedConfiguration
  /-- An 8-bit or 16-bit or odd-offset access to a device register (20_memory.md R76; U2); raised
  by a load, a store or a fetch that reaches a device other than RAM. Safe. -/
  | deviceNarrowAccess
  /-- A timer control write with START and STOP together (61_devices.md R365; U3); raised by a
  word store to that register. Safe. -/
  | timerStartAndStop
  /-- The architectural `break` (46_control_regs_system.md R270; U5); raised by `break` when the
  configuration asks for that behaviour. Safe. -/
  | breakNotModelled
  /-- A fetch from a region that is not RAM (20_memory.md R75; U4); raised by the fetch when the
  configuration asks for it. Safe. -/
  | deviceFetch
deriving DecidableEq, Repr

/-- What a step or an instruction answers. -/
abbrev StepOutcome := Host.Outcome State Fault Refusal

/-! ## Reset -/

/-- The configuration that `State.reset` carries: that of 95_test_vectors.md 3.12, with
`EXC_ADDR` of its conventions (DESIGN CHOICE, log 2). -/
def exampleConfig : Config where
  resetAddr := 0x100#32
  excAddr := 0x20#32
  cpuFreq := 50000000
  traceEnabled := false
  stmtAddrs := []
  unlisted := { muli := .exception, nextpc := .exception, trap := .exception, brk := .exception }
  deviceFetch := .asRead

/-- The regions that `State.reset` carries, with every device at its power-on state (10_state.md
R37 to R41): those of 95_test_vectors.md 3.12 and a DebugChannel (DESIGN CHOICE, log 2). -/
def exampleBus : List Region :=
  [{ name := "ram", base := 0x0#32, span := 0x8000, irq := none, dev := .ram },
   { name := "timer", base := 0x8000#32, span := 0x18, irq := some 1,
     dev := .timer
       { periodInit := 9#32, alwaysRun := false, fixedPeriod := false, hasSnapshot := true }
       { period := 9#32, counter := 9#32, ito := false, cont := false, timeout := false, run := false,
         counting := false, snapshot := 0#32 } },
   { name := "serial", base := 0x9000#32, span := 0x10, irq := some 2,
     dev := .serialPort { fifo := [], rxIrqEn := false, txIrqEn := false, txPending := false } },
   { name := "pio_in", base := 0xA000#32, span := 0x10, irq := some 3,
     dev := .parallelIO .input { data := 0#32, irqMask := 0#32, edgeCapture := 0#32 } },
   { name := "pio_out", base := 0xA010#32, span := 0x10, irq := none,
     dev := .parallelIO .output { data := 0#32, irqMask := 0#32, edgeCapture := 0#32 } },
   { name := "lcd", base := 0xB000#32, span := 0x10, irq := none,
     dev := .characterDisplay 32 { text := List.replicate 32 0x20#8, cursor := 0 } },
   { name := "debug", base := 0xC000#32, span := 0x8, irq := some 4,
     dev := .debugChannel { fifo := [], rxIrqEn := false, txIrqEn := false, txPending := false } }]

/-- The machine right after power-on (70_reset_and_hazards.md R464; 10_state.md section 10) with
the example configuration and nothing listed in RAM; the display has emitted its text (R41). -/
def State.reset : State where
  cfg := exampleConfig
  bus := exampleBus
  regs := Vector.replicate 32 0#32
  pc := 0x100#32
  ctl := Vector.replicate 32 0#32
  irq := 0#32
  runState := .run
  fatal := none
  clock := 0
  debuggingState := .continue_
  callStackSize := 0
  stepFrame := 0
  bp := []
  mem := []
  out := [.lcdText 5 (List.replicate 32 0x20#8)]
  freeCount := 0
  started := false

end Sys2Proof.Machine
end

