-- ==== Sys2Proof/Machine/Ops.lean ====
section
/-! DEFINITION. The named operations over memory, registers, control registers, the pending word
and the output stream, and taking and returning from an exception (10_state.md; 20_memory.md R68;
60_exceptions.md R313, R316, R322). -/

namespace Sys2Proof.Machine

/-! ## Sparse tables: the one canonical form of memory and of the breakpoint counts -/

/-- The value at a key; an unlisted key has the default value. -/
def sparseRead {α : Type} (dflt : α) : List (Nat × α) → Nat → α
  | [], _ => dflt
  | (k, x) :: rest, a => if a = k then x else sparseRead dflt rest a

/-- Set the value at a key, keeping keys rising and listing no default value. -/
def sparseWrite {α : Type} [DecidableEq α] (dflt : α) :
    List (Nat × α) → Nat → α → List (Nat × α)
  | [], a, v => if v = dflt then [] else [(a, v)]
  | (k, x) :: rest, a, v =>
    if a < k then (if v = dflt then (k, x) :: rest else (a, v) :: (k, x) :: rest)
    else if a = k then (if v = dflt then rest else (a, v) :: rest)
    else (k, x) :: sparseWrite dflt rest a v

/-- The canonical form: keys strictly rising from `lo` on and below `hi`, no default value. -/
def sparseWf {α : Type} [DecidableEq α] (dflt : α) (hi : Nat) (lo : Nat) :
    List (Nat × α) → Bool
  | [] => true
  | (k, x) :: rest =>
    decide (lo ≤ k) && decide (k < hi) && decide (x ≠ dflt) && sparseWf dflt hi (k + 1) rest

/-! ## Memory bytes and little-endian accesses (20_memory.md R68) -/

/-- The canonical form of memory: addresses of 32 bits strictly rising, no entry equal to 0. -/
def Memory.wf (m : Memory) : Bool := sparseWf (0#8) (2 ^ 32) 0 m

/-- One byte. A byte nothing has written reads 0 (DESIGN CHOICE, log 3). -/
def Memory.read (m : Memory) (a : Word) : Byte := sparseRead 0#8 m a.toNat

/-- Store one byte. -/
def Memory.write (m : Memory) (a : Word) (b : Byte) : Memory := sparseWrite 0#8 m a.toNat b

/-- An 8, 16 or 32-bit read, the byte at the lowest address the least significant, zero-extended
to 32 bits (20_memory.md R68). -/
def Memory.readSize (m : Memory) (a : Word) : Size → Word
  | .byte => (m.read a).setWidth 32
  | .half => (m.read (a + 1#32) ++ m.read a).setWidth 32
  | .word => m.read (a + 3#32) ++ m.read (a + 2#32) ++ m.read (a + 1#32) ++ m.read a

/-- An 8, 16 or 32-bit write of the low bits of `v` (20_memory.md R68). -/
def Memory.writeSize (m : Memory) (a : Word) (v : Word) : Size → Memory
  | .byte => m.write a (v.extractLsb' 0 8)
  | .half => (m.write a (v.extractLsb' 0 8)).write (a + 1#32) (v.extractLsb' 8 8)
  | .word =>
    (((m.write a (v.extractLsb' 0 8)).write (a + 1#32) (v.extractLsb' 8 8)).write (a + 2#32)
      (v.extractLsb' 16 8)).write (a + 3#32) (v.extractLsb' 24 8)

/-- The number of bytes of an access. -/
def Size.bytes : Size → Nat
  | .byte => 1
  | .half => 2
  | .word => 4

/-- The low n bits of a value, zero-extended: what an n-bit store carries (20_memory.md R71). -/
def Size.truncate (v : Word) : Size → Word
  | .byte => (v.extractLsb' 0 8).setWidth 32
  | .half => (v.extractLsb' 0 16).setWidth 32
  | .word => v

/-- An address that an n-bit access may have (20_memory.md R69). -/
def Size.aligned (a : Word) : Size → Bool
  | .byte => true
  | .half => a.extractLsb' 0 1 == 0#1
  | .word => a.extractLsb' 0 2 == 0#2

/-! ## General registers (10_state.md R20, R21; 00_scope.md R13) -/

/-- `x[r]`; register 0 reads as 0 (R21). -/
def State.getReg (s : State) (r : Reg) : Word := if r = 0 then 0#32 else s.regs[r]

/-- `x[r] <- v`; a write to register 0 is discarded (R21). -/
def State.setReg (s : State) (r : Reg) (v : Word) : State :=
  { s with regs := if r = 0 then s.regs else s.regs.set r v }

/-- `pc <- v` (R23). -/
def State.setPc (s : State) (v : Word) : State := { s with pc := v }

/-- The address the executing instruction was fetched from: while an instruction executes, `pc`
already holds that address plus 4 (10_state.md R23; 60_exceptions.md R311; log 19). -/
def State.ipc (s : State) : Word := s.pc - 4#32

/-! ## Control registers (10_state.md R24 to R29) -/

/-- `ipending`: the pending word masked by ienable, computed and never stored (R28). -/
def State.ipending (s : State) : Word := s.irq &&& s.ctl[3]

/-- `ctl[n]`, read (R28 for number 4). -/
def State.getCtl (s : State) (n : CtlReg) : Word := if n = 4 then s.ipending else s.ctl[n]

/-- `ctl[n] <- v`; a write to number 4 changes nothing (R28). -/
def State.setCtl (s : State) (n : CtlReg) (v : Word) : State :=
  { s with ctl := if n = 4 then s.ctl else s.ctl.set n v }

/-- PIE, bit 0 of status (R25). -/
def State.pie (s : State) : Bool := s.ctl[0].getLsbD 0

/-! ## The pending word (60_exceptions.md R316) -/

/-- `AssertIRQ(n)` on the pending word. -/
def assertLine (irq : Word) (n : Line) : Word := irq ||| (1#32 <<< n.val)

/-- `DeassertIRQ(n)` on the pending word. -/
def deassertLine (irq : Word) (n : Line) : Word := irq &&& ~~~(1#32 <<< n.val)

/-- What a device asks of its line: nothing, or its new level. With no line configured the call
does nothing (R316; 61_devices.md R350). -/
def driveLine (irq : Word) (line : Option Line) (level : Option Bool) : Word :=
  match line, level with
  | some n, some true => assertLine irq n
  | some n, some false => deassertLine irq n
  | _, _ => irq

/-! ## Output events and fatal errors -/

/-- `emit` (00_scope.md R11, R13; log 12). -/
def State.emit (s : State) (es : List Event) : State := { s with out := s.out ++ es }

/-- `raise Fatal(err)`: record the error and notify the host; nothing else changes, and the tick
ends (60_exceptions.md R322). -/
def State.raiseFatal (s : State) (err : FatalError) : State :=
  { s with fatal := some err, out := s.out ++ [.fatalNotify err] }

/-! ## Exceptions (60_exceptions.md R313; 45_control_flow.md R233) -/

/-- `ExceptionIssue(p)`: estatus takes status, PIE is cleared, `x[29]` takes `p + 4` and the
program counter the exception address; nothing else changes (R313, R320). -/
def State.takeException (s : State) (p : Word) : State :=
  { s with
    ctl := (s.ctl.set 1 s.ctl[0]).set 0 (s.ctl[0] &&& 0xFFFFFFFE#32)
    regs := s.regs.set eaReg (p + 4#32)
    pc := s.cfg.excAddr }

/-- The return from an exception: status takes estatus, all 32 bits, and the program counter
`x[29]`, unchecked (45_control_flow.md R233). -/
def State.returnFromException (s : State) : State :=
  { s with ctl := s.ctl.set 0 s.ctl[1], pc := s.getReg eaReg }

/-! ## Free values (log 6) -/

/-- The free value of this use; the counter moves on, so the next use is another value. -/
def State.freeQuotient (s : State) : Word := Config.divOverflowQuotient s.freeCount

/-- One free value has been used. -/
def State.useFree (s : State) : State := { s with freeCount := s.freeCount + 1 }

end Sys2Proof.Machine
end

