-- ==== Sys2Proof/Machine/Operands.lean ====
section
/-! DEFINITION. How an instruction turns its immediate bits into an operand, and the addresses it
computes (00_scope.md R13; 30_encoding.md R106; 45_control_flow.md R221, R222; 47_load_store.md
R280). -/

namespace Sys2Proof.Machine

/-- `sext_16`: the signed 16-bit immediate (30_encoding.md R106). -/
def sext16 (imm : BitVec 16) : Word := imm.signExtend 32

/-- `zext_16`: the unsigned 16-bit immediate (30_encoding.md R106). -/
def zext16 (imm : BitVec 16) : Word := imm.setWidth 32

/-- The high immediate: IMM16 in the upper 16 bits, zeros below (30_encoding.md R106). -/
def high16 (imm : BitVec 16) : Word := imm ++ 0#16

/-- `sext_8` of the low byte of a loaded value (47_load_store.md R281). -/
def sextByte (v : Word) : Word := (v.extractLsb' 0 8).signExtend 32

/-- `sext_16` of the low halfword of a loaded value (47_load_store.md R283). -/
def sextHalf (v : Word) : Word := (v.extractLsb' 0 16).signExtend 32

/-- `zext_8` of the low byte of a loaded value (47_load_store.md R282). -/
def zextByte (v : Word) : Word := (v.extractLsb' 0 8).setWidth 32

/-- `zext_16` of the low halfword of a loaded value (47_load_store.md R284). -/
def zextHalf (v : Word) : Word := (v.extractLsb' 0 16).setWidth 32

/-- `ea = (x[A] + sext_16(IMM16)) mod 2^32`, the one addressing mode (47_load_store.md R280). -/
def State.effectiveAddress (s : State) (rA : Reg) (imm : BitVec 16) : Word :=
  s.getReg rA + sext16 imm

/-- `(npc + sext_16(IMM16)) mod 2^32`, the target of a branch (45_control_flow.md R222); while an
instruction executes, `pc` is `npc`. -/
def State.branchTarget (s : State) (imm : BitVec 16) : Word := s.pc + sext16 imm

/-- `[npc[31:28], IMM26, 00]`, the target of `call` and `jmpi` (45_control_flow.md R221). -/
def State.jumpTarget (s : State) (imm : BitVec 26) : Word :=
  s.pc.extractLsb' 28 4 ++ imm ++ 0#2

/-- The shift amount that a register supplies: its low five bits (44_shift_rotate.md). -/
def shiftAmount (v : Word) : Nat := (v.extractLsb' 0 5).toNat

end Sys2Proof.Machine
end

