-- ==== Sys2Proof/Machine/Logic.lean ====
section
/-! DEFINITION. The bitwise logic instructions (40_logic.md). While an instruction executes, `pc`
already holds `npc`, and these leave it there. -/

namespace Sys2Proof.Machine

/-- Write a result to a destination register and change nothing else; a destination of register 0
discards it (10_state.md R21). -/
def writeResult (s : State) (r : Reg) (v : Word) : StepOutcome := .next (s.setReg r v)

/-- `and rC, rA, rB` (R130). -/
def execAnd (rC rA rB : Reg) (s : State) : StepOutcome :=
  writeResult s rC (s.getReg rA &&& s.getReg rB)

/-- `or rC, rA, rB` (R131). -/
def execOr (rC rA rB : Reg) (s : State) : StepOutcome :=
  writeResult s rC (s.getReg rA ||| s.getReg rB)

/-- `xor rC, rA, rB` (R132). -/
def execXor (rC rA rB : Reg) (s : State) : StepOutcome :=
  writeResult s rC (s.getReg rA ^^^ s.getReg rB)

/-- `nor rC, rA, rB` (R133). -/
def execNor (rC rA rB : Reg) (s : State) : StepOutcome :=
  writeResult s rC (~~~(s.getReg rA ||| s.getReg rB))

/-- `andi rB, rA, IMM16` (R134). -/
def execAndi (rB rA : Reg) (imm16 : BitVec 16) (s : State) : StepOutcome :=
  writeResult s rB (s.getReg rA &&& zext16 imm16)

/-- `ori rB, rA, IMM16` (R135). -/
def execOri (rB rA : Reg) (imm16 : BitVec 16) (s : State) : StepOutcome :=
  writeResult s rB (s.getReg rA ||| zext16 imm16)

/-- `xori rB, rA, IMM16` (R136). -/
def execXori (rB rA : Reg) (imm16 : BitVec 16) (s : State) : StepOutcome :=
  writeResult s rB (s.getReg rA ^^^ zext16 imm16)

/-- `andhi rB, rA, IMM16` (R137). -/
def execAndhi (rB rA : Reg) (imm16 : BitVec 16) (s : State) : StepOutcome :=
  writeResult s rB (s.getReg rA &&& high16 imm16)

/-- `orhi rB, rA, IMM16` (R138). -/
def execOrhi (rB rA : Reg) (imm16 : BitVec 16) (s : State) : StepOutcome :=
  writeResult s rB (s.getReg rA ||| high16 imm16)

/-- `xorhi rB, rA, IMM16` (R139). -/
def execXorhi (rB rA : Reg) (imm16 : BitVec 16) (s : State) : StepOutcome :=
  writeResult s rB (s.getReg rA ^^^ high16 imm16)

end Sys2Proof.Machine
end

