-- ==== Sys2Proof/Machine/AddSub.lean ====
section
/-! DEFINITION. The add and subtract instructions (41_add_sub.md): results modulo 2^32, no
overflow, carry or flag. -/

namespace Sys2Proof.Machine

/-- `add rC, rA, rB` (R150). -/
def execAdd (rC rA rB : Reg) (s : State) : StepOutcome :=
  writeResult s rC (s.getReg rA + s.getReg rB)

/-- `addi rB, rA, IMM16` (R151). -/
def execAddi (rB rA : Reg) (imm16 : BitVec 16) (s : State) : StepOutcome :=
  writeResult s rB (s.getReg rA + sext16 imm16)

/-- `sub rC, rA, rB`: `rA` is the minuend (R152). -/
def execSub (rC rA rB : Reg) (s : State) : StepOutcome :=
  writeResult s rC (s.getReg rA - s.getReg rB)

end Sys2Proof.Machine
end

