-- ==== Sys2Proof/Machine/Flags.lean ====
section
/-! DEFINITION. The relations that the compare instructions and the branches test. The machine has
no flags (10_state.md R42): a compare writes 0 or 1 to a register, and a branch compares two
registers itself (43_compare.md; 45_control_flow.md R226 to R231). -/

namespace Sys2Proof.Machine

/-- `a == b`. -/
def relEq (a b : Word) : Bool := decide (a = b)

/-- `a != b`. -/
def relNe (a b : Word) : Bool := decide (a ≠ b)

/-- `s(a) >= s(b)`. -/
def relGe (a b : Word) : Bool := decide (b.toInt ≤ a.toInt)

/-- `u(a) >= u(b)`. -/
def relGeu (a b : Word) : Bool := decide (b.toNat ≤ a.toNat)

/-- `s(a) < s(b)`. -/
def relLt (a b : Word) : Bool := decide (a.toInt < b.toInt)

/-- `u(a) < u(b)`. -/
def relLtu (a b : Word) : Bool := decide (a.toNat < b.toNat)

/-- The result of a compare: 1 when the relation holds, 0 when it does not (43_compare.md). -/
def compareResult (holds : Bool) : Word := if holds then 1#32 else 0#32

/-- The target of a control transfer is a multiple of 4 (45_control_flow.md R223). -/
def targetAligned (t : Word) : Bool := t.extractLsb' 0 2 == 0#2

end Sys2Proof.Machine
end

