-- ==== Sys2Proof/Machine/Compare.lean ====
section
/-! DEFINITION. The compare instructions (43_compare.md): 1 when the relation holds, else 0. -/

namespace Sys2Proof.Machine

/-- `cmpeq rC, rA, rB` (R180). -/
def execCmpeq (rC rA rB : Reg) (s : State) : StepOutcome :=
  writeResult s rC (compareResult (relEq (s.getReg rA) (s.getReg rB)))

/-- `cmpne rC, rA, rB` (R181). -/
def execCmpne (rC rA rB : Reg) (s : State) : StepOutcome :=
  writeResult s rC (compareResult (relNe (s.getReg rA) (s.getReg rB)))

/-- `cmpge rC, rA, rB` (R182). -/
def execCmpge (rC rA rB : Reg) (s : State) : StepOutcome :=
  writeResult s rC (compareResult (relGe (s.getReg rA) (s.getReg rB)))

/-- `cmpgeu rC, rA, rB` (R183). -/
def execCmpgeu (rC rA rB : Reg) (s : State) : StepOutcome :=
  writeResult s rC (compareResult (relGeu (s.getReg rA) (s.getReg rB)))

/-- `cmplt rC, rA, rB` (R184). -/
def execCmplt (rC rA rB : Reg) (s : State) : StepOutcome :=
  writeResult s rC (compareResult (relLt (s.getReg rA) (s.getReg rB)))

/-- `cmpltu rC, rA, rB` (R185). -/
def execCmpltu (rC rA rB : Reg) (s : State) : StepOutcome :=
  writeResult s rC (compareResult (relLtu (s.getReg rA) (s.getReg rB)))

/-- `cmpeqi rB, rA, IMM16` (R186). -/
def execCmpeqi (rB rA : Reg) (imm16 : BitVec 16) (s : State) : StepOutcome :=
  writeResult s rB (compareResult (relEq (s.getReg rA) (sext16 imm16)))

/-- `cmpnei rB, rA, IMM16` (R187). -/
def execCmpnei (rB rA : Reg) (imm16 : BitVec 16) (s : State) : StepOutcome :=
  writeResult s rB (compareResult (relNe (s.getReg rA) (sext16 imm16)))

/-- `cmpgei rB, rA, IMM16` (R188). -/
def execCmpgei (rB rA : Reg) (imm16 : BitVec 16) (s : State) : StepOutcome :=
  writeResult s rB (compareResult (relGe (s.getReg rA) (sext16 imm16)))

/-- `cmpgeui rB, rA, IMM16` (R189). -/
def execCmpgeui (rB rA : Reg) (imm16 : BitVec 16) (s : State) : StepOutcome :=
  writeResult s rB (compareResult (relGeu (s.getReg rA) (zext16 imm16)))

/-- `cmplti rB, rA, IMM16` (R190). -/
def execCmplti (rB rA : Reg) (imm16 : BitVec 16) (s : State) : StepOutcome :=
  writeResult s rB (compareResult (relLt (s.getReg rA) (sext16 imm16)))

/-- `cmpltui rB, rA, IMM16` (R191). -/
def execCmpltui (rB rA : Reg) (imm16 : BitVec 16) (s : State) : StepOutcome :=
  writeResult s rB (compareResult (relLtu (s.getReg rA) (zext16 imm16)))

end Sys2Proof.Machine
end

