-- ==== Sys2Proof/Machine/Stepping.lean ====
section
/-! DEFINITION. The breakpoint set and the stepping controller (62_debug_stepping.md R430 to R440). -/

namespace Sys2Proof.Machine

/-! ## Breakpoints (R430, R431) -/

/-- The canonical form of the breakpoint set. -/
def Breakpoints.wf (b : Breakpoints) : Bool := sparseWf 0 (2 ^ 32) 0 b

/-- `bp(a)`. -/
def Breakpoints.count (b : Breakpoints) (a : Word) : Nat := sparseRead 0 b a.toNat

/-- `SetBreakpoint(a)` (R431). -/
def Breakpoints.arm (b : Breakpoints) (a : Word) : Breakpoints :=
  sparseWrite 0 b a.toNat (b.count a + 1)

/-- `ClearBreakpoint(a)`: the count never goes below 0 (R431). -/
def Breakpoints.disarm (b : Breakpoints) (a : Word) : Breakpoints :=
  sparseWrite 0 b a.toNat (b.count a - 1)

/-- `addr` "has an explicit breakpoint" (R430). -/
def State.hasBreakpoint (s : State) (a : Word) : Bool := decide (0 < s.bp.count a)

/-- `addr` is a source-statement boundary (R435; 00_scope.md R8). -/
def State.isStatement (s : State) (a : Word) : Bool := s.cfg.stmtAddrs.contains a

/-! ## The controller -/

/-- `NotifyCall()` (R433). -/
def State.notifyCall (s : State) : State := { s with callStackSize := s.callStackSize + 1 }

/-- The mode after a return that leaves the call depth at `depth` (R434, R440). -/
def modeAfterReturn (mode : DebuggingState) (depth frame : Int) : DebuggingState :=
  match mode with
  | .stepOver => if depth < frame then .stepInto else .stepOver
  | .stepReturn => if depth < frame then .stepInto else .stepReturn
  | .continue_ => .continue_
  | .stepInto => .stepInto
  | .stepInstruction => .stepInstruction

/-- `NotifyReturn()` (R434). -/
def State.notifyReturn (s : State) : State :=
  { s with
    callStackSize := s.callStackSize - 1
    debuggingState := modeAfterReturn s.debuggingState (s.callStackSize - 1) s.stepFrame }

/-- `shouldHalt(addr)` (R435). -/
def State.shouldHalt (s : State) (a : Word) : Bool :=
  match s.debuggingState with
  | .continue_ => s.hasBreakpoint a
  | .stepReturn => s.hasBreakpoint a
  | .stepOver =>
    s.hasBreakpoint a || (decide (s.callStackSize < s.stepFrame) && s.isStatement a)
  | .stepInto => s.hasBreakpoint a || s.isStatement a
  | .stepInstruction => true

/-- The halt before a fetch: suspend and notify; nothing else changes (R439). -/
def State.halt (s : State) : State :=
  { s with runState := .halted, out := s.out ++ [.haltNotify s.pc] }

/-- `SelectMode(m)`: the mode, the depth snapshot and the resume (R436). -/
def State.selectMode (s : State) (m : DebuggingState) : State :=
  { s with
    debuggingState := m
    stepFrame := if m = .stepOver ∨ m = .stepReturn then s.callStackSize else s.stepFrame
    runState := if s.runState = .halted then .resuming else s.runState }

end Sys2Proof.Machine
end

