-- ==== Sys2Proof/Machine/ControlFlow.lean ====
section
/-! DEFINITION. The control-transfer instructions (45_control_flow.md). `pc` holds `npc` while an
instruction executes; a transfer that is not taken leaves it there. -/

namespace Sys2Proof.Machine

/-- `CheckTarget(t)` and what follows it: an aligned target gives the state `after`; any other
takes the misaligned-target exception at `ipc` and nothing else happens (R223; 60_exceptions.md
R315). -/
def checkTarget (s : State) (t : Word) (after : State) : StepOutcome :=
  if targetAligned t then .next after else .next (s.takeException s.ipc)

/-- A transfer to `t` with no other effect. -/
def transfer (s : State) (t : Word) : StepOutcome := checkTarget s t (s.setPc t)

/-- A call of `t`: the link register takes `npc`, and the call depth grows (R224, R225). -/
def callTo (s : State) (t : Word) : StepOutcome :=
  checkTarget s t ((s.setReg raReg s.pc).setPc t).notifyCall

/-- A conditional branch: checked only when it is taken (45_control_flow.md section 4). -/
def branchIf (s : State) (holds : Bool) (imm16 : BitVec 16) : StepOutcome :=
  if holds then transfer s (s.branchTarget imm16) else .next s

/-- `jmp rA` (R220). -/
def execJmp (rA : Reg) (s : State) : StepOutcome := transfer s (s.getReg rA)

/-- `jmpi label` (R221). -/
def execJmpi (imm26 : BitVec 26) (s : State) : StepOutcome := transfer s (s.jumpTarget imm26)

/-- `br label` (R222). -/
def execBr (imm16 : BitVec 16) (s : State) : StepOutcome := transfer s (s.branchTarget imm16)

/-- `call label` (R224). -/
def execCall (imm26 : BitVec 26) (s : State) : StepOutcome := callTo s (s.jumpTarget imm26)

/-- `callr rA`: `x[A]` is read before `x[31]` is written (R225). -/
def execCallr (rA : Reg) (s : State) : StepOutcome := callTo s (s.getReg rA)

/-- `beq rA, rB, label` (R226). -/
def execBeq (rA rB : Reg) (imm16 : BitVec 16) (s : State) : StepOutcome :=
  branchIf s (relEq (s.getReg rA) (s.getReg rB)) imm16

/-- `bne rA, rB, label` (R227). -/
def execBne (rA rB : Reg) (imm16 : BitVec 16) (s : State) : StepOutcome :=
  branchIf s (relNe (s.getReg rA) (s.getReg rB)) imm16

/-- `bge rA, rB, label` (R228). -/
def execBge (rA rB : Reg) (imm16 : BitVec 16) (s : State) : StepOutcome :=
  branchIf s (relGe (s.getReg rA) (s.getReg rB)) imm16

/-- `bgeu rA, rB, label` (R229). -/
def execBgeu (rA rB : Reg) (imm16 : BitVec 16) (s : State) : StepOutcome :=
  branchIf s (relGeu (s.getReg rA) (s.getReg rB)) imm16

/-- `blt rA, rB, label` (R230). -/
def execBlt (rA rB : Reg) (imm16 : BitVec 16) (s : State) : StepOutcome :=
  branchIf s (relLt (s.getReg rA) (s.getReg rB)) imm16

/-- `bltu rA, rB, label` (R231). -/
def execBltu (rA rB : Reg) (imm16 : BitVec 16) (s : State) : StepOutcome :=
  branchIf s (relLtu (s.getReg rA) (s.getReg rB)) imm16

/-- `ret`: no alignment check; the call depth shrinks (R232). -/
def execRet (s : State) : StepOutcome := .next (s.setPc (s.getReg raReg)).notifyReturn

/-- `eret` (R233). -/
def execEret (s : State) : StepOutcome := .next s.returnFromException

/-- `bret`, an accepted no-op (R234). -/
def execBret (s : State) : StepOutcome := .next s

end Sys2Proof.Machine
end

