-- ==== Sys2Proof/Machine/Devices.lean ====
section
/-! DEFINITION. The device models: registers, interrupt lines, OnClock, reset and power-on
(61_devices.md R350 to R416). Offsets are byte offsets from the region's base; every register is
one 32-bit word (R350). -/

namespace Sys2Proof.Machine

/-- A word with bit `k` set iff `b`. -/
def bitAt (b : Bool) (k : Nat) : Word := if b then 1#32 <<< k else 0#32

/-- What a device call leaves: the device, the new level of its line (`none`: no call of
AssertIRQ or DeassertIRQ) and the output events. -/
structure DeviceResult where
  dev : Device
  level : Option Bool
  events : List Event
deriving DecidableEq, Repr

/-! ## Line functions (R352) -/

/-- `TO and ITO` (R370). -/
def TimerState.line (t : TimerState) : Bool := t.timeout && t.ito

/-- `(rx_irq_en and fifo non-empty) or tx_pending` (R376). -/
def SerialState.line (st : SerialState) : Bool :=
  (st.rxIrqEn && !st.fifo.isEmpty) || st.txPending

/-- `(edge_capture & irq_mask) != 0` (R400). -/
def PioState.line (p : PioState) : Bool := decide (p.edgeCapture &&& p.irqMask ≠ 0#32)

/-- The line function of a device that has one (R352, R415). -/
def Device.line : Device → Option Bool
  | .ram => none
  | .timer _ t => some t.line
  | .serialPort st => some st.line
  | .debugChannel st => some st.line
  | .parallelIO _ p => some p.line
  | .characterDisplay _ _ => none

/-! ## Timer (R360 to R372) -/

/-- `Timer.OnClock()` (R362): the timer and the level it drives. -/
def TimerState.onClock (p : TimerParams) (t : TimerState) : TimerState × Option Bool :=
  if t.counting = false then (t, none)
  else if t.counter = 0#32 then
    let again := p.alwaysRun || t.cont
    ({ t with counter := t.period, timeout := true, run := again, counting := again },
      if t.ito then some true else none)
  else ({ t with counter := t.counter - 1#32 }, none)

/-- The value a timer register reads (R360, R363, R368). -/
def TimerState.readReg (p : TimerParams) (t : TimerState) (off : Nat) : Word :=
  match off with
  | 0 => bitAt t.timeout 0 ||| bitAt t.run 1
  | 4 => bitAt t.ito 0 ||| bitAt t.cont 1
  | 8 => (t.period.extractLsb' 0 16).setWidth 32
  | 12 => (t.period.extractLsb' 16 16).setWidth 32
  | 16 => if p.hasSnapshot then (t.snapshot.extractLsb' 0 16).setWidth 32 else 0#32
  | 20 => if p.hasSnapshot then (t.snapshot.extractLsb' 16 16).setWidth 32 else 0#32
  | _ => 0#32

/-- A status write clears TO and lowers the line (R364). -/
def TimerState.writeStatus (t : TimerState) : TimerState × Option Bool :=
  ({ t with timeout := false }, some false)

/-- A control write (R365): ITO, CONT, then START or STOP unless `ALWAYS_RUN`; START with STOP is
given no meaning (U3, log 8); then the line is re-evaluated. -/
def TimerState.writeControl (p : TimerParams) (t : TimerState) (v : Word) :
    Except Refusal (TimerState × Option Bool) :=
  let t1 := { t with ito := v.getLsbD 0, cont := v.getLsbD 1 }
  if p.alwaysRun then .ok (t1, some t1.line)
  else if v.getLsbD 2 && v.getLsbD 3 then .error .timerStartAndStop
  else if v.getLsbD 2 then
    .ok ({ t1 with counting := true, run := true }, some t1.line)
  else if v.getLsbD 3 then
    .ok ({ t1 with counting := false, run := false }, some t1.line)
  else .ok (t1, some t1.line)

/-- A write of a period half, given the new period (R366). -/
def TimerState.writePeriod (p : TimerParams) (t : TimerState) (period : Word) : TimerState :=
  if p.fixedPeriod then t
  else if p.alwaysRun then { t with period := period, counter := period }
  else { t with period := period, counter := period, counting := false, run := false }

/-- A write of a snapshot half captures the counter, if there is a snapshot register (R368). -/
def TimerState.writeSnapshot (p : TimerParams) (t : TimerState) : TimerState :=
  if p.hasSnapshot then { t with snapshot := t.counter } else t

/-- A write of a timer register (R360). -/
def TimerState.writeReg (p : TimerParams) (t : TimerState) (off : Nat) (v : Word) :
    Except Refusal (TimerState × Option Bool) :=
  match off with
  | 0 => .ok t.writeStatus
  | 4 => t.writeControl p v
  | 8 => .ok (t.writePeriod p (t.period.extractLsb' 16 16 ++ v.extractLsb' 0 16), none)
  | 12 => .ok (t.writePeriod p (v.extractLsb' 0 16 ++ t.period.extractLsb' 0 16), none)
  | 16 => .ok (t.writeSnapshot p, none)
  | 20 => .ok (t.writeSnapshot p, none)
  | _ => .ok (t, none)

/-- `Timer.Reset()` (R369); the line is lowered by the caller. -/
def TimerState.resetState (p : TimerParams) (t : TimerState) : TimerState :=
  { period := t.period, counter := t.period, ito := false, cont := false, timeout := false,
    run := p.alwaysRun, counting := p.alwaysRun, snapshot := 0#32 }

/-! ## SerialPort and DebugChannel (R375 to R390) -/

/-- The pop of a data-register read: the byte, if there is one, and the state after (R378). -/
def SerialState.pop (st : SerialState) : Option Byte × SerialState :=
  match st.fifo with
  | [] => (none, st)
  | b :: rest => (some b, { st with fifo := rest })

/-- What a SerialPort data read returns (R378). -/
def serialData : Option Byte → Word
  | none => 0#32
  | some b => b.setWidth 32

/-- What a DebugChannel data read returns, given how many bytes are left after it: the byte,
RVALID at bit 15 and RAVAIL in bits 31:16 (R378). -/
def debugData (left : Nat) : Option Byte → Word
  | none => 0#32
  | some b => b.setWidth 32 ||| bitAt true 15 ||| (BitVec.ofNat 32 (min left 0xFFFF) <<< 16)

/-- The SerialPort's status register: RRDY, TRDY and TMT (R377). -/
def SerialState.status (st : SerialState) : Word :=
  bitAt (!st.fifo.isEmpty) 7 ||| bitAt true 6 ||| bitAt true 5

/-- The SerialPort's control register (R377). -/
def SerialState.control (st : SerialState) : Word := bitAt st.rxIrqEn 7 ||| bitAt st.txIrqEn 6

/-- The DebugChannel's control register: RE, WE, RI, WI and WSPACE = 64 (R382). -/
def SerialState.debugControl (st : SerialState) : Word :=
  bitAt st.rxIrqEn 0 ||| bitAt st.txIrqEn 1 ||| bitAt (st.rxIrqEn && !st.fifo.isEmpty) 8 |||
    bitAt st.txPending 9 ||| (64#32 <<< 16)

/-- A data-register write lowers the write-interrupt-pending flag (R379). -/
def SerialState.transmit (st : SerialState) : SerialState := { st with txPending := false }

/-- A control-register write: the two enables, and tx_pending takes the second (R381, R384). -/
def SerialState.setEnables (st : SerialState) (rx tx : Bool) : SerialState :=
  { st with rxIrqEn := rx, txIrqEn := tx, txPending := tx }

/-- Serial `Reset()` and power-on (R385; 10_state.md R39). -/
def SerialState.empty : SerialState :=
  { fifo := [], rxIrqEn := false, txIrqEn := false, txPending := false }

/-! ## ParallelIO (R393 to R401) -/

/-- The value a ParallelIO register reads (R393, R394). -/
def PioState.readReg (p : PioState) (off : Nat) : Word :=
  match off with
  | 0 => p.data
  | 8 => p.irqMask
  | 12 => p.edgeCapture
  | _ => 0#32

/-- The 32 bits of an out-direction port, forwarded in ascending order (R395). -/
def pioEvents (dev : Nat) (v : Word) : List Event :=
  (List.range 32).map fun k => Event.pioOut dev k (v.getLsbD k)

/-- A write of a ParallelIO register (R395, R398, R399). -/
def PioState.writeReg (dir : Direction) (p : PioState) (dev off : Nat) (v : Word) :
    DeviceResult :=
  match off with
  | 0 =>
    match dir with
    | .input => ⟨.parallelIO dir p, none, []⟩
    | .output => ⟨.parallelIO dir { p with data := v }, none, pioEvents dev v⟩
  | 8 =>
    let p1 := { p with irqMask := v }
    ⟨.parallelIO dir p1, some p1.line, []⟩
  | 12 => ⟨.parallelIO dir { p with edgeCapture := 0#32 }, some false, []⟩
  | _ => ⟨.parallelIO dir p, none, []⟩

/-- `UpdateData(dev, d, bit)` on an in-direction port: the data, the capture bit and the level
(R397). -/
def PioState.updateData (p : PioState) (d : Word) (bit : Line) : PioState × Option Bool :=
  ({ p with data := d, edgeCapture := assertLine p.edgeCapture bit },
    if p.irqMask.getLsbD bit.val then some true else none)

/-! ## CharacterDisplay (R405 to R410) -/

/-- The cleared display (R406, R409; 10_state.md R41). -/
def LcdState.cleared (len : Nat) : LcdState := { text := List.replicate len 0x20#8, cursor := 0 }

/-- A write of the instruction register, all 32 bits compared (R406). -/
def LcdState.command (len : Nat) (l : LcdState) (dev : Nat) (v : Word) : LcdState × List Event :=
  if v = 1#32 then (LcdState.cleared len, [.lcdText dev (LcdState.cleared len).text])
  else if v = 0x80#32 then ({ l with cursor := 0 }, [])
  else if v = 0xC0#32 then ({ l with cursor := len / 2 }, [])
  else (l, [])

/-- A write of the data register: one character at the cursor, which advances and wraps (R407). -/
def LcdState.putChar (len : Nat) (l : LcdState) (dev : Nat) (v : Word) : LcdState × List Event :=
  let text := l.text.set l.cursor (v.extractLsb' 0 8)
  ({ text := text, cursor := (l.cursor + 1) % len }, [.lcdText dev text])

/-! ## The device interface (20_memory.md R67) -/

/-- A 32-bit read of a device register: the value and what it leaves. Only the data register of a
serial device changes anything (R363, R378, R394, R408; 20_memory.md R75). -/
def Device.readReg (d : Device) (off : Nat) : Word × DeviceResult :=
  match d with
  | .ram => (0#32, ⟨.ram, none, []⟩)
  | .timer p t => (t.readReg p off, ⟨.timer p t, none, []⟩)
  | .serialPort st =>
    match off with
    | 0 => (serialData st.pop.1, ⟨.serialPort st.pop.2, some st.pop.2.line, []⟩)
    | 8 => (st.status, ⟨.serialPort st, none, []⟩)
    | 12 => (st.control, ⟨.serialPort st, none, []⟩)
    | _ => (0#32, ⟨.serialPort st, none, []⟩)
  | .debugChannel st =>
    match off with
    | 0 =>
      (debugData st.pop.2.fifo.length st.pop.1,
        ⟨.debugChannel st.pop.2, some st.pop.2.line, []⟩)
    | 4 => (st.debugControl, ⟨.debugChannel st, none, []⟩)
    | _ => (0#32, ⟨.debugChannel st, none, []⟩)
  | .parallelIO dir p => (p.readReg off, ⟨.parallelIO dir p, none, []⟩)
  | .characterDisplay len l => (0#32, ⟨.characterDisplay len l, none, []⟩)

/-- A 32-bit write of a device register (R360, R377, R382, R393, R405). `dev` is the index that
names the device in its output events. -/
def Device.writeReg (d : Device) (dev off : Nat) (v : Word) : Except Refusal DeviceResult :=
  match d with
  | .ram => .ok ⟨.ram, none, []⟩
  | .timer p t =>
    match t.writeReg p off v with
    | .error r => .error r
    | .ok (t1, level) => .ok ⟨.timer p t1, level, []⟩
  | .serialPort st =>
    match off with
    | 4 =>
      .ok ⟨.serialPort st.transmit, some st.transmit.line, [.charOut dev (v.extractLsb' 0 8)]⟩
    | 12 =>
      let st1 := st.setEnables (v.getLsbD 7) (v.getLsbD 6)
      .ok ⟨.serialPort st1, some st1.line, []⟩
    | _ => .ok ⟨.serialPort st, none, []⟩
  | .debugChannel st =>
    match off with
    | 0 =>
      .ok ⟨.debugChannel st.transmit, some st.transmit.line, [.charOut dev (v.extractLsb' 0 8)]⟩
    | 4 =>
      let st1 := st.setEnables (v.getLsbD 0) (v.getLsbD 1)
      .ok ⟨.debugChannel st1, some st1.line, []⟩
    | _ => .ok ⟨.debugChannel st, none, []⟩
  | .parallelIO dir p => .ok (p.writeReg dir dev off v)
  | .characterDisplay len l =>
    match off with
    | 0 => .ok ⟨.characterDisplay len (l.command len dev v).1, none, (l.command len dev v).2⟩
    | 8 => .ok ⟨.characterDisplay len (l.putChar len dev v).1, none, (l.putChar len dev v).2⟩
    | _ => .ok ⟨.characterDisplay len l, none, []⟩

/-- `OnClock()`: only a Timer has one (R350, R362). -/
def Device.onClock (d : Device) : Device × Option Bool :=
  match d with
  | .timer p t => (.timer p (t.onClock p).1, (t.onClock p).2)
  | .ram => (.ram, none)
  | .serialPort st => (.serialPort st, none)
  | .debugChannel st => (.debugChannel st, none)
  | .parallelIO dir p => (.parallelIO dir p, none)
  | .characterDisplay len l => (.characterDisplay len l, none)

/-- `Reset()` of a device (R351, R369, R385, R401, R409). -/
def Device.resetDevice (d : Device) (dev : Nat) : DeviceResult :=
  match d with
  | .ram => ⟨.ram, none, []⟩
  | .timer p t => ⟨.timer p (t.resetState p), some false, []⟩
  | .serialPort _ => ⟨.serialPort .empty, some false, []⟩
  | .debugChannel _ => ⟨.debugChannel .empty, some false, []⟩
  | .parallelIO .input p =>
    ⟨.parallelIO .input { p with irqMask := 0#32, edgeCapture := 0#32 }, some false, []⟩
  | .parallelIO .output _ =>
    ⟨.parallelIO .output { data := 0#32, irqMask := 0#32, edgeCapture := 0#32 }, some false,
      pioEvents dev 0#32⟩
  | .characterDisplay len _ =>
    ⟨.characterDisplay len (.cleared len), none, [.lcdText dev (LcdState.cleared len).text]⟩

/-- The state a device of this configuration has at power-on (10_state.md R38 to R41), with the
text a CharacterDisplay emits. -/
def Device.powerOn (d : Device) (dev : Nat) : Device × List Event :=
  match d with
  | .ram => (.ram, [])
  | .timer p _ =>
    (.timer p
      { period := p.periodInit, counter := p.periodInit, ito := false, cont := false,
        timeout := false, run := p.alwaysRun, counting := p.alwaysRun, snapshot := 0#32 }, [])
  | .serialPort _ => (.serialPort .empty, [])
  | .debugChannel _ => (.debugChannel .empty, [])
  | .parallelIO dir _ =>
    (.parallelIO dir { data := 0#32, irqMask := 0#32, edgeCapture := 0#32 }, [])
  | .characterDisplay len _ =>
    (.characterDisplay len (.cleared len), [.lcdText dev (LcdState.cleared len).text])

end Sys2Proof.Machine
end

