-- ==== Sys2Proof/WellFormed.lean ====
section
/-! DEFINITION. When a configuration is well formed (20_memory.md R63; 00_scope.md R7). A step
refuses any other (log 11). An instruction needs no check of its own: every operand of `Instr` has
exactly the width of its field (30_encoding.md R101), and a device stands in its region, so R63 (c)
holds by construction. -/

namespace Sys2Proof.Machine

/-- The bytes a device's registers take: the least span of its region (61_devices.md R360, R377,
R382, R393, R405; 20_memory.md R63 (e)). -/
def Device.minSpan : Device → Nat
  | .ram => 0
  | .timer _ _ => 24
  | .serialPort _ => 16
  | .debugChannel _ => 8
  | .parallelIO _ _ => 16
  | .characterDisplay _ _ => 16

/-- The first address after a region, as an unbounded number (20_memory.md R61). -/
def Region.limit (r : Region) : Nat := r.base.toNat + r.span

/-- Whether two regions share an address (20_memory.md R63 (a)). -/
def Region.overlaps (r q : Region) : Bool :=
  decide (r.base.toNat < q.limit) && decide (q.base.toNat < r.limit)

/-- Base a multiple of 4, span a positive multiple of 4, end at most 2^32 (20_memory.md R63 (b)). -/
def Region.placed (r : Region) : Bool :=
  decide (r.base.toNat % 4 = 0) && decide (0 < r.span) && decide (r.span % 4 = 0) &&
    decide (r.limit ≤ 2 ^ 32)

/-- The span covers the device's registers (20_memory.md R63 (e)). -/
def Region.covers (r : Region) : Bool := decide (r.dev.minSpan ≤ r.span)

/-- RAM has no interrupt line (00_scope.md R7; 61_devices.md R351). -/
def Region.lineAllowed (r : Region) : Bool :=
  match r.dev with
  | .ram => r.irq.isNone
  | _ => true

/-- `LCD_LEN` is positive and even (00_scope.md R7). -/
def Region.displayLength (r : Region) : Bool :=
  match r.dev with
  | .characterDisplay len _ => decide (0 < len) && decide (len % 2 = 0)
  | _ => true

/-- The checks on one region. -/
def Region.wellFormed (r : Region) : Bool :=
  r.placed && r.covers && r.lineAllowed && r.displayLength

/-- No two regions overlap (20_memory.md R63 (a)). -/
def regionsDisjoint : List Region → Bool
  | [] => true
  | r :: rest => rest.all (fun q => !r.overlaps q) && regionsDisjoint rest

/-- No two devices have the same line (20_memory.md R63 (d)). -/
def linesDistinct : List Region → Bool
  | [] => true
  | r :: rest => (r.irq.isNone || rest.all (fun q => decide (q.irq ≠ r.irq))) && linesDistinct rest

/-- A well-formed list of regions (20_memory.md R63). -/
def busWellFormed (bus : List Region) : Bool :=
  bus.all Region.wellFormed && regionsDisjoint bus && linesDistinct bus

end Sys2Proof.Machine
end

