-- ==== Sys2Proof/Machine/Bus.lean ====
section
/-! DEFINITION. The bus and the CPU-side access primitives (20_memory.md R60 to R76, R84). -/

namespace Sys2Proof.Machine

/-! ## Address resolution (R61, R62) -/

/-- Whether an address lies in a region; `base + span` is not reduced (R61). -/
def Region.contains (r : Region) (a : Word) : Bool :=
  decide (r.base.toNat ≤ a.toNat) && decide (a.toNat < r.limit)

/-- The first region, in configuration order, that contains the address, with its index counted
from `k`. -/
def resolveFrom (k : Nat) (a : Word) : List Region → Option (Nat × Region)
  | [] => none
  | r :: rest => if r.contains a then some (k, r) else resolveFrom (k + 1) a rest

/-- `Resolve(addr)` (R61). -/
def State.resolve (s : State) (a : Word) : Option (Nat × Region) := resolveFrom 0 a s.bus

/-- `IsAddressValid(addr)` (R62). -/
def State.addressValid (s : State) (a : Word) : Bool := (s.resolve a).isSome

/-- The configuration meets R63. -/
def State.configOk (s : State) : Bool := busWellFormed s.bus

/-! ## Bus-layer operations (R64, R65) -/

/-- The record of a non-io access when the trace is enabled (R66). -/
def State.traceAccess (s : State) (kind : AccessKind) (a : Word) (isIo : Bool) : State :=
  if s.cfg.traceEnabled && !isIo then s.emit [.trace kind a] else s

/-- Take over what a device call left: the device in region `k`, its line, its events. -/
def State.applyDevice (s : State) (k : Nat) (r : Region) (d : DeviceResult) : State :=
  { s with
    bus := s.bus.set k { r with dev := d.dev }
    irq := driveLine s.irq r.irq d.level
    out := s.out ++ d.events }

/-- The offset of an address from a region's base (R64). -/
def Region.offset (r : Region) (a : Word) : Nat := a.toNat - r.base.toNat

/-- An access that a device register gives a meaning: 32 bits at a multiple of 4 (R76). -/
def deviceAccess (off : Nat) (size : Size) : Bool := decide (size = .word) && decide (off % 4 = 0)

/-- The read of region `k` (R64, R68, R76). -/
def State.regionRead (s : State) (k : Nat) (r : Region) (a : Word) (size : Size) :
    Except Refusal (Word × State) :=
  if r.dev = .ram then .ok (s.mem.readSize a size, s)
  else if deviceAccess (r.offset a) size then
    .ok ((r.dev.readReg (r.offset a)).1, s.applyDevice k r (r.dev.readReg (r.offset a)).2)
  else .error .deviceNarrowAccess

/-- `BusRead(addr, n, isIo, isFetch)`: an n-bit value, zero-extended, and the state after (R64). -/
def State.busRead (s : State) (a : Word) (size : Size) (isIo isFetch : Bool) :
    Except Refusal (Word × State) :=
  let s1 := s.traceAccess (if isFetch then .fetch else .load) a isIo
  match s1.resolve a with
  | none => .ok (0#32, s1)
  | some (k, r) => s1.regionRead k r a size

/-- The write of region `k` (R65, R68, R76). -/
def State.regionWrite (s : State) (k : Nat) (r : Region) (a : Word) (size : Size) (v : Word) :
    Except Refusal State :=
  if r.dev = .ram then .ok { s with mem := s.mem.writeSize a v size }
  else if deviceAccess (r.offset a) size then
    match r.dev.writeReg k (r.offset a) v with
    | .error e => .error e
    | .ok d => .ok (s.applyDevice k r d)
  else .error .deviceNarrowAccess

/-- `BusWrite(addr, n, v, isIo)` (R65). -/
def State.busWrite (s : State) (a : Word) (size : Size) (v : Word) (isIo : Bool) :
    Except Refusal State :=
  let s1 := s.traceAccess .store a isIo
  match s1.resolve a with
  | none => .ok s1
  | some (k, r) => s1.regionWrite k r a size v

/-! ## CPU-side primitives (R69 to R72) -/

/-- `MemRead(addr, n, io)`: alignment first, then validity, then the bus (R70). An access that
ends the instruction answers how it ends. -/
def State.memRead (s : State) (a : Word) (size : Size) (io : Bool) :
    Except StepOutcome (Word × State) :=
  if !size.aligned a then
    .error (.next (s.raiseFatal ⟨.misalignedAccess, a, size, .load, none⟩))
  else if !s.addressValid a then
    .error (.next (s.raiseFatal ⟨.invalidAddress, a, size, .load, none⟩))
  else
    match s.busRead a size io false with
    | .error r => .error (.refused r)
    | .ok x => .ok x

/-- `MemWrite(addr, n, v, io)`: the same checks, with the data in the record (R71). -/
def State.memWrite (s : State) (a : Word) (size : Size) (v : Word) (io : Bool) : StepOutcome :=
  if !size.aligned a then
    .next (s.raiseFatal ⟨.misalignedAccess, a, size, .store, some (size.truncate v)⟩)
  else if !s.addressValid a then
    .next (s.raiseFatal ⟨.invalidAddress, a, size, .store, some (size.truncate v)⟩)
  else
    match s.busWrite a size v io with
    | .error r => .refused r
    | .ok s1 => .next s1

/-- The region at an address is RAM. -/
def State.isRam (s : State) (a : Word) : Bool :=
  match s.resolve a with
  | some (_, r) => decide (r.dev = .ram)
  | none => false

/-- The fetch of the word at `pc`, which is valid and aligned: an ordinary bus read (R72), or a
refusal outside RAM where the configuration asks for it (R75; U4, log 9). -/
def State.fetchWord (s : State) : Except Refusal (Word × State) :=
  if s.cfg.deviceFetch = .refuse ∧ s.isRam s.pc = false then .error .deviceFetch
  else s.busRead s.pc .word false true

/-! ## The shared meaning of the loads and of the stores (47_load_store.md R280) -/

/-- A load: the value of `ea`, extended by `ext`, into `x[B]` (R280). -/
def loadInto (s : State) (rB : Reg) (ea : Word) (size : Size) (io : Bool) (ext : Word → Word) :
    StepOutcome :=
  match s.memRead ea size io with
  | .error o => o
  | .ok (v, s1) => .next (s1.setReg rB (ext v))

/-- A store: the low bits of `x[B]` to `ea` (R280). -/
def storeFrom (s : State) (rB : Reg) (ea : Word) (size : Size) (io : Bool) : StepOutcome :=
  s.memWrite ea size (s.getReg rB) io

end Sys2Proof.Machine
end

