-- ==== Sys2Proof/Machine/LoadStore.lean ====
section
/-! DEFINITION. The loads and stores (47_load_store.md): one addressing mode, one bus access each. The
io forms differ only in leaving no trace record (20_memory.md R84). -/

namespace Sys2Proof.Machine

/-- `ldb rB, IMM16(rA)` (R281). -/
def execLdb (rB rA : Reg) (imm16 : BitVec 16) (s : State) : StepOutcome :=
  loadInto s rB (s.effectiveAddress rA imm16) .byte false sextByte

/-- `ldbu rB, IMM16(rA)` (R282). -/
def execLdbu (rB rA : Reg) (imm16 : BitVec 16) (s : State) : StepOutcome :=
  loadInto s rB (s.effectiveAddress rA imm16) .byte false zextByte

/-- `ldh rB, IMM16(rA)` (R283). -/
def execLdh (rB rA : Reg) (imm16 : BitVec 16) (s : State) : StepOutcome :=
  loadInto s rB (s.effectiveAddress rA imm16) .half false sextHalf

/-- `ldhu rB, IMM16(rA)` (R284). -/
def execLdhu (rB rA : Reg) (imm16 : BitVec 16) (s : State) : StepOutcome :=
  loadInto s rB (s.effectiveAddress rA imm16) .half false zextHalf

/-- `ldw rB, IMM16(rA)` (R285). -/
def execLdw (rB rA : Reg) (imm16 : BitVec 16) (s : State) : StepOutcome :=
  loadInto s rB (s.effectiveAddress rA imm16) .word false id

/-- `ldbio rB, IMM16(rA)` (R286). -/
def execLdbio (rB rA : Reg) (imm16 : BitVec 16) (s : State) : StepOutcome :=
  loadInto s rB (s.effectiveAddress rA imm16) .byte true sextByte

/-- `ldbuio rB, IMM16(rA)` (R287). -/
def execLdbuio (rB rA : Reg) (imm16 : BitVec 16) (s : State) : StepOutcome :=
  loadInto s rB (s.effectiveAddress rA imm16) .byte true zextByte

/-- `ldhio rB, IMM16(rA)` (R288). -/
def execLdhio (rB rA : Reg) (imm16 : BitVec 16) (s : State) : StepOutcome :=
  loadInto s rB (s.effectiveAddress rA imm16) .half true sextHalf

/-- `ldhuio rB, IMM16(rA)` (R289). -/
def execLdhuio (rB rA : Reg) (imm16 : BitVec 16) (s : State) : StepOutcome :=
  loadInto s rB (s.effectiveAddress rA imm16) .half true zextHalf

/-- `ldwio rB, IMM16(rA)` (R290). -/
def execLdwio (rB rA : Reg) (imm16 : BitVec 16) (s : State) : StepOutcome :=
  loadInto s rB (s.effectiveAddress rA imm16) .word true id

/-- `stb rB, IMM16(rA)` (R291). -/
def execStb (rB rA : Reg) (imm16 : BitVec 16) (s : State) : StepOutcome :=
  storeFrom s rB (s.effectiveAddress rA imm16) .byte false

/-- `sth rB, IMM16(rA)` (R292). -/
def execSth (rB rA : Reg) (imm16 : BitVec 16) (s : State) : StepOutcome :=
  storeFrom s rB (s.effectiveAddress rA imm16) .half false

/-- `stw rB, IMM16(rA)` (R293). -/
def execStw (rB rA : Reg) (imm16 : BitVec 16) (s : State) : StepOutcome :=
  storeFrom s rB (s.effectiveAddress rA imm16) .word false

/-- `stbio rB, IMM16(rA)` (R294). -/
def execStbio (rB rA : Reg) (imm16 : BitVec 16) (s : State) : StepOutcome :=
  storeFrom s rB (s.effectiveAddress rA imm16) .byte true

/-- `sthio rB, IMM16(rA)` (R295). -/
def execSthio (rB rA : Reg) (imm16 : BitVec 16) (s : State) : StepOutcome :=
  storeFrom s rB (s.effectiveAddress rA imm16) .half true

/-- `stwio rB, IMM16(rA)` (R296). -/
def execStwio (rB rA : Reg) (imm16 : BitVec 16) (s : State) : StepOutcome :=
  storeFrom s rB (s.effectiveAddress rA imm16) .word true

end Sys2Proof.Machine
end

