-- ==== Sys2Proof/Machine/MulDiv.lean ====
section
/-! DEFINITION. The multiply and divide instructions (42_multiply_divide.md). -/

namespace Sys2Proof.Machine

/-- Bits 63:32 of an exact product: its quotient by 2^32, rounded down (R161, R162, R163). -/
def highWord (p : Int) : Word := BitVec.ofInt 32 (p / 0x100000000)

/-- The one pair of operands whose signed quotient does not fit 32 bits (R164; U1). -/
def divOverflows (a b : Word) : Bool :=
  decide (a = 0x80000000#32) && decide (b = 0xFFFFFFFF#32)

/-- The signed quotient, rounded toward zero (R164). -/
def signedQuotient (a b : Word) : Word := BitVec.ofInt 32 (a.toInt.tdiv b.toInt)

/-- `mul rC, rA, rB`: the low word of the product (R160). -/
def execMul (rC rA rB : Reg) (s : State) : StepOutcome :=
  writeResult s rC (s.getReg rA * s.getReg rB)

/-- `mulxss rC, rA, rB`: both operands signed (R161). -/
def execMulxss (rC rA rB : Reg) (s : State) : StepOutcome :=
  writeResult s rC (highWord ((s.getReg rA).toInt * (s.getReg rB).toInt))

/-- `mulxsu rC, rA, rB`: `rA` signed, `rB` unsigned (R162). -/
def execMulxsu (rC rA rB : Reg) (s : State) : StepOutcome :=
  writeResult s rC (highWord ((s.getReg rA).toInt * (s.getReg rB).toNat))

/-- `mulxuu rC, rA, rB`: both operands unsigned (R163). -/
def execMulxuu (rC rA rB : Reg) (s : State) : StepOutcome :=
  writeResult s rC (highWord ((s.getReg rA).toNat * (s.getReg rB).toNat))

/-- `div rC, rA, rB` (R164). A zero divisor writes nothing. 0x80000000 by 0xFFFFFFFF writes a free
value (DESIGN CHOICE, log 6). -/
def execDiv (rC rA rB : Reg) (s : State) : StepOutcome :=
  if s.getReg rB = 0#32 then .next s
  else if divOverflows (s.getReg rA) (s.getReg rB) then
    writeResult s.useFree rC s.freeQuotient
  else writeResult s rC (signedQuotient (s.getReg rA) (s.getReg rB))

/-- `divu rC, rA, rB`: a zero divisor writes nothing (R165). -/
def execDivu (rC rA rB : Reg) (s : State) : StepOutcome :=
  if s.getReg rB = 0#32 then .next s
  else writeResult s rC (BitVec.ofNat 32 ((s.getReg rA).toNat / (s.getReg rB).toNat))

end Sys2Proof.Machine
end

