-- ==== Sys2Proof/Machine/ShiftRotate.lean ====
section
/-! DEFINITION. The shift and rotate instructions (44_shift_rotate.md). An amount is 0 to 31: the low
five bits of a register, or IMM5. -/

namespace Sys2Proof.Machine

/-- Rotate left by n, 0 to 31: bits leaving at bit 31 re-enter at bit 0 (R200). -/
def rotateLeftBy (v : Word) (n : Nat) : Word :=
  if n = 0 then v else (v <<< n) ||| (v >>> (32 - n))

/-- Rotate right by n, 0 to 31: bits leaving at bit 0 re-enter at bit 31 (R202). -/
def rotateRightBy (v : Word) (n : Nat) : Word :=
  if n = 0 then v else (v >>> n) ||| (v <<< (32 - n))

/-- `rol rC, rA, rB` (R200). -/
def execRol (rC rA rB : Reg) (s : State) : StepOutcome :=
  writeResult s rC (rotateLeftBy (s.getReg rA) (shiftAmount (s.getReg rB)))

/-- `roli rC, rA, IMM5` (R201). -/
def execRoli (rC rA : Reg) (imm5 : BitVec 5) (s : State) : StepOutcome :=
  writeResult s rC (rotateLeftBy (s.getReg rA) imm5.toNat)

/-- `ror rC, rA, rB` (R202). -/
def execRor (rC rA rB : Reg) (s : State) : StepOutcome :=
  writeResult s rC (rotateRightBy (s.getReg rA) (shiftAmount (s.getReg rB)))

/-- `sll rC, rA, rB` (R203). -/
def execSll (rC rA rB : Reg) (s : State) : StepOutcome :=
  writeResult s rC (s.getReg rA <<< shiftAmount (s.getReg rB))

/-- `slli rC, rA, IMM5` (R204). -/
def execSlli (rC rA : Reg) (imm5 : BitVec 5) (s : State) : StepOutcome :=
  writeResult s rC (s.getReg rA <<< imm5.toNat)

/-- `srl rC, rA, rB`, logical (R205). -/
def execSrl (rC rA rB : Reg) (s : State) : StepOutcome :=
  writeResult s rC (s.getReg rA >>> shiftAmount (s.getReg rB))

/-- `srli rC, rA, IMM5`, logical (R206). -/
def execSrli (rC rA : Reg) (imm5 : BitVec 5) (s : State) : StepOutcome :=
  writeResult s rC (s.getReg rA >>> imm5.toNat)

/-- `sra rC, rA, rB`, arithmetic (R207). -/
def execSra (rC rA rB : Reg) (s : State) : StepOutcome :=
  writeResult s rC ((s.getReg rA).sshiftRight (shiftAmount (s.getReg rB)))

/-- `srai rC, rA, IMM5`, arithmetic (R208). -/
def execSrai (rC rA : Reg) (imm5 : BitVec 5) (s : State) : StepOutcome :=
  writeResult s rC ((s.getReg rA).sshiftRight imm5.toNat)

end Sys2Proof.Machine
end

