-- ==== Sys2Proof/Machine/System.lean ====
section
/-! DEFINITION. Control-register access and the system instructions (46_control_regs_system.md). There
is one privilege mode, so none of them checks a mode (60_exceptions.md R330). -/

namespace Sys2Proof.Machine

/-- Nothing: `pc` stays `npc`, no register is read or written, no address is computed (R260). -/
def noEffect (s : State) : StepOutcome := .next s

/-- The unimplemented-instruction exception, issued at `ipc` (R261; 60_exceptions.md R314). -/
def unimplemented (s : State) : StepOutcome := .next (s.takeException s.ipc)

/-- `rdctl rC, ctlN` (R250). -/
def execRdctl (rC : Reg) (n : CtlReg) (s : State) : StepOutcome := writeResult s rC (s.getCtl n)

/-- `wrctl ctlN, rA` (R251). -/
def execWrctl (n : CtlReg) (rA : Reg) (s : State) : StepOutcome := .next (s.setCtl n (s.getReg rA))

/-- `sync` does nothing (R252). -/
def execSync (s : State) : StepOutcome := noEffect s

/-- `flushp` does nothing (R253). -/
def execFlushp (s : State) : StepOutcome := noEffect s

/-- `flushi` does nothing (R254). -/
def execFlushi (_rA : Reg) (s : State) : StepOutcome := noEffect s

/-- `flushd` does nothing (R255). -/
def execFlushd (_rA : Reg) (_imm16 : BitVec 16) (s : State) : StepOutcome := noEffect s

/-- `flushda` does nothing (R256). -/
def execFlushda (_rA : Reg) (_imm16 : BitVec 16) (s : State) : StepOutcome := noEffect s

/-- `initi` does nothing (R257). -/
def execIniti (_rA : Reg) (s : State) : StepOutcome := noEffect s

/-- `initd` does nothing (R258). -/
def execInitd (_rA : Reg) (_imm16 : BitVec 16) (s : State) : StepOutcome := noEffect s

/-- `initda` does nothing (R259). -/
def execInitda (_rA : Reg) (_imm16 : BitVec 16) (s : State) : StepOutcome := noEffect s

/-- `custom` always takes the exception; the operand fields are not read (R264). -/
def execCustom (_n : BitVec 11) (_rC _rA _rB : Reg) (s : State) : StepOutcome := unimplemented s

/-- `rdprs` always takes the exception (R265). -/
def execRdprs (_rB _rA : Reg) (_imm16 : BitVec 16) (s : State) : StepOutcome := unimplemented s

/-- `wrprs` always takes the exception (R266). -/
def execWrprs (_rC _rA : Reg) (s : State) : StepOutcome := unimplemented s

/-- `muli rB, rA, IMM16` (R267). -/
def execMuli (rB rA : Reg) (imm16 : BitVec 16) (s : State) : StepOutcome :=
  match s.cfg.unlisted.muli with
  | .exception => unimplemented s
  | .architectural => writeResult s rB (s.getReg rA * sext16 imm16)

/-- `nextpc rC` (R268). -/
def execNextpc (rC : Reg) (s : State) : StepOutcome :=
  match s.cfg.unlisted.nextpc with
  | .exception => unimplemented s
  | .architectural => writeResult s rC s.pc

/-- `trap`: both choices are the same transition (R269). -/
def execTrap (s : State) : StepOutcome :=
  match s.cfg.unlisted.trap with
  | .exception => unimplemented s
  | .architectural => .next (s.takeException s.ipc)

/-- `break`: the architectural one enters a debug vector that the configuration does not have, and
is given no behaviour (R270; log 10). -/
def execBrk (s : State) : StepOutcome :=
  match s.cfg.unlisted.brk with
  | .exception => unimplemented s
  | .architectural => .refused .breakNotModelled

end Sys2Proof.Machine
end

