-- ==== Sys2Proof/Machine/Dispatch.lean ====
section
/-! DEFINITION. The meaning of each instruction, one arm for each row of spec/opcode_table.json. The
state given to `exec` is the one in which an instruction executes: the word has been fetched and
`pc` already holds `npc` (60_exceptions.md R311; 10_state.md R23; log 19). -/

namespace Sys2Proof.Machine

def exec (i : Instr) (s : State) : Host.Outcome State Fault Refusal :=
  match i with
  -- Bitwise logic (40_logic.md)
  | .and rC rA rB => Sys2Proof.Machine.execAnd rC rA rB s
  | .or rC rA rB => Sys2Proof.Machine.execOr rC rA rB s
  | .xor rC rA rB => Sys2Proof.Machine.execXor rC rA rB s
  | .nor rC rA rB => Sys2Proof.Machine.execNor rC rA rB s
  | .andi rB rA imm16 => Sys2Proof.Machine.execAndi rB rA imm16 s
  | .ori rB rA imm16 => Sys2Proof.Machine.execOri rB rA imm16 s
  | .xori rB rA imm16 => Sys2Proof.Machine.execXori rB rA imm16 s
  | .andhi rB rA imm16 => Sys2Proof.Machine.execAndhi rB rA imm16 s
  | .orhi rB rA imm16 => Sys2Proof.Machine.execOrhi rB rA imm16 s
  | .xorhi rB rA imm16 => Sys2Proof.Machine.execXorhi rB rA imm16 s
  -- Add and subtract (41_add_sub.md)
  | .add rC rA rB => Sys2Proof.Machine.execAdd rC rA rB s
  | .addi rB rA imm16 => Sys2Proof.Machine.execAddi rB rA imm16 s
  | .sub rC rA rB => Sys2Proof.Machine.execSub rC rA rB s
  -- Multiply and divide (42_multiply_divide.md)
  | .mul rC rA rB => Sys2Proof.Machine.execMul rC rA rB s
  | .mulxss rC rA rB => Sys2Proof.Machine.execMulxss rC rA rB s
  | .mulxsu rC rA rB => Sys2Proof.Machine.execMulxsu rC rA rB s
  | .mulxuu rC rA rB => Sys2Proof.Machine.execMulxuu rC rA rB s
  | .div rC rA rB => Sys2Proof.Machine.execDiv rC rA rB s
  | .divu rC rA rB => Sys2Proof.Machine.execDivu rC rA rB s
  -- Compare (43_compare.md)
  | .cmpeq rC rA rB => Sys2Proof.Machine.execCmpeq rC rA rB s
  | .cmpne rC rA rB => Sys2Proof.Machine.execCmpne rC rA rB s
  | .cmpge rC rA rB => Sys2Proof.Machine.execCmpge rC rA rB s
  | .cmpgeu rC rA rB => Sys2Proof.Machine.execCmpgeu rC rA rB s
  | .cmplt rC rA rB => Sys2Proof.Machine.execCmplt rC rA rB s
  | .cmpltu rC rA rB => Sys2Proof.Machine.execCmpltu rC rA rB s
  | .cmpeqi rB rA imm16 => Sys2Proof.Machine.execCmpeqi rB rA imm16 s
  | .cmpnei rB rA imm16 => Sys2Proof.Machine.execCmpnei rB rA imm16 s
  | .cmpgei rB rA imm16 => Sys2Proof.Machine.execCmpgei rB rA imm16 s
  | .cmpgeui rB rA imm16 => Sys2Proof.Machine.execCmpgeui rB rA imm16 s
  | .cmplti rB rA imm16 => Sys2Proof.Machine.execCmplti rB rA imm16 s
  | .cmpltui rB rA imm16 => Sys2Proof.Machine.execCmpltui rB rA imm16 s
  -- Shift and rotate (44_shift_rotate.md)
  | .rol rC rA rB => Sys2Proof.Machine.execRol rC rA rB s
  | .roli rC rA imm5 => Sys2Proof.Machine.execRoli rC rA imm5 s
  | .ror rC rA rB => Sys2Proof.Machine.execRor rC rA rB s
  | .sll rC rA rB => Sys2Proof.Machine.execSll rC rA rB s
  | .slli rC rA imm5 => Sys2Proof.Machine.execSlli rC rA imm5 s
  | .srl rC rA rB => Sys2Proof.Machine.execSrl rC rA rB s
  | .srli rC rA imm5 => Sys2Proof.Machine.execSrli rC rA imm5 s
  | .sra rC rA rB => Sys2Proof.Machine.execSra rC rA rB s
  | .srai rC rA imm5 => Sys2Proof.Machine.execSrai rC rA imm5 s
  -- Control transfer (45_control_flow.md)
  | .jmp rA => Sys2Proof.Machine.execJmp rA s
  | .jmpi imm26 => Sys2Proof.Machine.execJmpi imm26 s
  | .br imm16 => Sys2Proof.Machine.execBr imm16 s
  | .call imm26 => Sys2Proof.Machine.execCall imm26 s
  | .callr rA => Sys2Proof.Machine.execCallr rA s
  | .beq rA rB imm16 => Sys2Proof.Machine.execBeq rA rB imm16 s
  | .bne rA rB imm16 => Sys2Proof.Machine.execBne rA rB imm16 s
  | .bge rA rB imm16 => Sys2Proof.Machine.execBge rA rB imm16 s
  | .bgeu rA rB imm16 => Sys2Proof.Machine.execBgeu rA rB imm16 s
  | .blt rA rB imm16 => Sys2Proof.Machine.execBlt rA rB imm16 s
  | .bltu rA rB imm16 => Sys2Proof.Machine.execBltu rA rB imm16 s
  | .ret => Sys2Proof.Machine.execRet s
  | .eret => Sys2Proof.Machine.execEret s
  | .bret => Sys2Proof.Machine.execBret s
  -- Control registers and system (46_control_regs_system.md)
  | .rdctl rC n => Sys2Proof.Machine.execRdctl rC n s
  | .wrctl n rA => Sys2Proof.Machine.execWrctl n rA s
  | .sync => Sys2Proof.Machine.execSync s
  | .flushp => Sys2Proof.Machine.execFlushp s
  | .flushi rA => Sys2Proof.Machine.execFlushi rA s
  | .flushd rA imm16 => Sys2Proof.Machine.execFlushd rA imm16 s
  | .flushda rA imm16 => Sys2Proof.Machine.execFlushda rA imm16 s
  | .initi rA => Sys2Proof.Machine.execIniti rA s
  | .initd rA imm16 => Sys2Proof.Machine.execInitd rA imm16 s
  | .initda rA imm16 => Sys2Proof.Machine.execInitda rA imm16 s
  | .custom n rC rA rB => Sys2Proof.Machine.execCustom n rC rA rB s
  | .rdprs rB rA imm16 => Sys2Proof.Machine.execRdprs rB rA imm16 s
  | .wrprs rC rA => Sys2Proof.Machine.execWrprs rC rA s
  | .muli rB rA imm16 => Sys2Proof.Machine.execMuli rB rA imm16 s
  | .nextpc rC => Sys2Proof.Machine.execNextpc rC s
  | .trap => Sys2Proof.Machine.execTrap s
  | .brk => Sys2Proof.Machine.execBrk s
  -- Loads and stores (47_load_store.md)
  | .ldb rB rA imm16 => Sys2Proof.Machine.execLdb rB rA imm16 s
  | .ldbu rB rA imm16 => Sys2Proof.Machine.execLdbu rB rA imm16 s
  | .ldh rB rA imm16 => Sys2Proof.Machine.execLdh rB rA imm16 s
  | .ldhu rB rA imm16 => Sys2Proof.Machine.execLdhu rB rA imm16 s
  | .ldw rB rA imm16 => Sys2Proof.Machine.execLdw rB rA imm16 s
  | .ldbio rB rA imm16 => Sys2Proof.Machine.execLdbio rB rA imm16 s
  | .ldbuio rB rA imm16 => Sys2Proof.Machine.execLdbuio rB rA imm16 s
  | .ldhio rB rA imm16 => Sys2Proof.Machine.execLdhio rB rA imm16 s
  | .ldhuio rB rA imm16 => Sys2Proof.Machine.execLdhuio rB rA imm16 s
  | .ldwio rB rA imm16 => Sys2Proof.Machine.execLdwio rB rA imm16 s
  | .stb rB rA imm16 => Sys2Proof.Machine.execStb rB rA imm16 s
  | .sth rB rA imm16 => Sys2Proof.Machine.execSth rB rA imm16 s
  | .stw rB rA imm16 => Sys2Proof.Machine.execStw rB rA imm16 s
  | .stbio rB rA imm16 => Sys2Proof.Machine.execStbio rB rA imm16 s
  | .sthio rB rA imm16 => Sys2Proof.Machine.execSthio rB rA imm16 s
  | .stwio rB rA imm16 => Sys2Proof.Machine.execStwio rB rA imm16 s

end Sys2Proof.Machine
end

