-- ==== Sys2Proof/Machine/Tick.lean ====
section
/-! DEFINITION. The tick of the CPU, the OnClock of the timers, the Step, and the placing of a word
where the next fetch reads it (60_exceptions.md R310, R311, R312). -/

namespace Sys2Proof.Machine

/-- The interrupt check: PIE is set and ipending is not zero (R312). -/
def State.interruptReady (s : State) : Bool := s.pie && decide (s.ipending ≠ 0#32)

/-- Decode a fetched word and perform it, or take the unimplemented-instruction exception (R311
steps 4 and 5). `pc` already holds `npc`. -/
def executeWord (s : State) (iw : Word) : StepOutcome :=
  match decodeWord iw with
  | .ok i => exec i s
  | .error _ => .next (s.takeException s.ipc)

/-- Step 4 of the tick: the alignment check, the fetch, the advance of `pc`, and the instruction. -/
def fetchAndExecute (s : State) : StepOutcome :=
  if s.pc.extractLsb' 0 2 ≠ 0#2 then
    .next (s.raiseFatal ⟨.misalignedAccess, s.pc, .word, .fetch, none⟩)
  else
    match s.fetchWord with
    | .error r => .refused r
    | .ok (iw, s1) => executeWord (s1.setPc (s1.pc + 4#32)) iw

/-- The state in which a tick starts its work: a resuming CPU runs again (R311), and the machine has
been stepped (10_state.md R30; log 14). -/
def State.enterTick (s : State) : State := { s with runState := .run, started := true }

/-- `cpu_tick()` (R311), for a CPU that is not halted. A resuming tick skips the interrupt check and
the halt check. -/
def cpuTick (s : State) : StepOutcome :=
  if s.runState = .run ∧ s.interruptReady = true then
    .next (s.enterTick.takeException s.pc)
  else if s.addressValid s.pc = false then
    .next (s.enterTick.raiseFatal ⟨.invalidAddress, s.pc, .word, .fetch, none⟩)
  else if s.runState = .run ∧ s.shouldHalt s.pc = true then .next s.enterTick.halt
  else fetchAndExecute s.enterTick

/-- `OnClock()` of every timer in configuration order: the regions and the pending word after it
(R310; 61_devices.md R362). -/
def clockRegions (irq : Word) : List Region → List Region × Word
  | [] => ([], irq)
  | r :: rest =>
    let after := clockRegions (driveLine irq r.irq r.dev.onClock.2) rest
    ({ r with dev := r.dev.onClock.1 } :: after.1, after.2)

/-- The end of a completed Step: the timers, then the clock (R310). -/
def State.endStep (s : State) : State :=
  { s with
    bus := (clockRegions s.irq s.bus).1
    irq := (clockRegions s.irq s.bus).2
    clock := s.clock + 1 }

/-- A machine that a Step does not move: stopped by a fatal error or halted (R310). -/
def State.idle (s : State) : Bool := s.fatal.isSome || decide (s.runState = .halted)

/-- What a Step does after the tick: nothing if the tick ended in a fatal error or a halt, else the
timers and the clock (R310). -/
def finishStep (s : State) : State := if s.idle then s else s.endStep

/-- `Step()` (R310). A configuration that is not well formed is refused (20_memory.md R63; log 11). -/
def stepMachine (s : State) : StepOutcome :=
  if s.configOk = false then .refused .illFormedConfiguration
  else if s.idle then .next s
  else
    match cpuTick s with
    | .next s1 => .next (finishStep s1)
    | .fault f => .fault f
    | .refused r => .refused r

/-- `s` with the instruction whose bits are `w` (of which `nbits` are given, the rest 0) stored in
memory at `pc`, in memory order. -/
def placeWord (s : State) (nbits w : Nat) : State :=
  { s with mem := s.mem.writeSize s.pc (BitVec.ofNat 32 (w % 2 ^ nbits)) .word }

end Sys2Proof.Machine
end

