-- ==== Sys2Proof/Machine/Step.lean ====
section
/-! DEFINITION. The step of the machine, which is the spec's `Step()` (60_exceptions.md R310), and the
placing of an instruction where it is fetched. -/

namespace Sys2Proof.Machine

/-- One Step of the machine. -/
def step (s : State) : Host.Outcome State Fault Refusal := stepMachine s

/-- `s` with an instruction stored where `step` fetches its next one: in RAM at `pc`. -/
def State.withFetchWord (s : State) (nbits w : Nat) : State := placeWord s nbits w

end Sys2Proof.Machine
end

