-- ==== Sys2Proof/Machine/HostEvents.lean ====
section
/-! DEFINITION. The host events other than `Step()`: each is one atomic transition between two Steps
(00_scope.md R10, R12), and power-on (70_reset_and_hazards.md R464). -/

namespace Sys2Proof.Machine

/-! ## Power-on (R464; 10_state.md section 10) -/

/-- The regions at power-on and what their devices emit, the first region numbered `k`. -/
def powerOnRegions (k : Nat) : List Region → List Region × List Event
  | [] => ([], [])
  | r :: rest =>
    ({ r with dev := (r.dev.powerOn k).1 } :: (powerOnRegions (k + 1) rest).1,
      (r.dev.powerOn k).2 ++ (powerOnRegions (k + 1) rest).2)

/-- The machine created from a configuration and `RAM_INIT`: every piece of state takes its
power-on value. Of a device in `bus`, only the kind and the configuration are used. R63 asks for a
well-formed configuration and names no operation that refuses another: `powerOn` makes its machine
all the same, and the step refuses it (DESIGN CHOICE, log 11). -/
def State.powerOn (cfg : Config) (bus : List Region) (ramInit : Memory) : State where
  cfg := cfg
  bus := (powerOnRegions 0 bus).1
  regs := Vector.replicate 32 0#32
  pc := cfg.resetAddr
  ctl := Vector.replicate 32 0#32
  irq := 0#32
  runState := .run
  fatal := none
  clock := 0
  debuggingState := .continue_
  callStackSize := 0
  stepFrame := 0
  bp := []
  mem := ramInit
  out := (powerOnRegions 0 bus).2
  freeCount := 0
  started := false

/-! ## Reset (70_reset_and_hazards.md R460 to R463) -/

/-- CPU reset (R461). -/
def State.resetCpu (s : State) : State :=
  { s with
    regs := Vector.replicate 32 0#32
    ctl := Vector.replicate 32 0#32
    irq := 0#32
    pc := s.cfg.resetAddr
    fatal := none }

/-- The reset of every device in configuration order, the first region numbered `k`: the regions,
the pending word and the emitted events (R462). -/
def resetRegions (k : Nat) (irq : Word) : List Region → List Region × Word × List Event
  | [] => ([], irq, [])
  | r :: rest =>
    let d := r.dev.resetDevice k
    let after := resetRegions (k + 1) (driveLine irq r.irq d.level) rest
    ({ r with dev := d.dev } :: after.1, after.2.1, d.events ++ after.2.2)

/-- Device reset (R462). -/
def State.resetDevices (s : State) : State :=
  { s with
    bus := (resetRegions 0 s.irq s.bus).1
    irq := (resetRegions 0 s.irq s.bus).2.1
    out := s.out ++ (resetRegions 0 s.irq s.bus).2.2 }

/-- Controller reset; the mode and the breakpoints are kept (R463). -/
def State.resetController (s : State) : State :=
  { s with runState := .run, callStackSize := 0, stepFrame := 0, started := false }

/-- `Reset()` (R460). -/
def State.resetEvent (s : State) : State := s.resetCpu.resetDevices.resetController

/-! ## Loading an image (R466, R467) -/

/-- A segment of an image: destination, length in memory and the bytes supplied (their number is
the file length). -/
structure Segment where
  addr : Word
  memlen : Nat
  bytes : List Byte
deriving DecidableEq, Repr

/-- A RAM region contains the whole segment, in unbounded arithmetic (R466 (1)). -/
def Segment.fits (g : Segment) (bus : List Region) : Bool :=
  bus.any fun r =>
    decide (r.dev = .ram) && decide (r.base.toNat ≤ g.addr.toNat) &&
      decide (g.addr.toNat + g.memlen ≤ r.limit)

/-- Bytes stored at rising addresses. -/
def Memory.writeBytes (m : Memory) (a : Word) : List Byte → Memory
  | [] => m
  | b :: rest => Memory.writeBytes (m.write a b) (a + 1#32) rest

/-- A segment's bytes, the tail filled with zeros (R466 (2)). -/
def Segment.contents (g : Segment) : List Byte :=
  g.bytes ++ List.replicate (g.memlen - g.bytes.length) 0#8

/-- Copy the segments in list order; later ones overwrite earlier ones (R466 (2)). -/
def Memory.loadSegments (m : Memory) : List Segment → Memory
  | [] => m
  | g :: rest => Memory.loadSegments (m.writeBytes g.addr g.contents) rest

/-- The load of an image whose segments all fit: reset, copy, `pc <- entry` (R466). The host gives
the image's statement boundaries with it (00_scope.md R8; log 15). -/
def State.loadImage (s : State) (segments : List Segment) (entry : Word) (stmts : List Word) :
    State :=
  let s1 := s.resetEvent
  { s1 with
    mem := s1.mem.loadSegments segments
    pc := entry
    cfg := { s1.cfg with stmtAddrs := stmts } }

/-! ## Input to devices (61_devices.md R383, R397) -/

/-- Input bytes appended to a serial device's FIFO. -/
def SerialState.receive (st : SerialState) (text : List Byte) : SerialState :=
  { st with fifo := st.fifo ++ text }

/-- `SendInput(dev, text)` on a device: none if it is no serial device (R383). The line is
re-evaluated on every call, also for an empty text: R383 says both that the line is re-evaluated and
that an empty text changes nothing, which differ only after the host has moved that line itself
(DESIGN CHOICE, log 27). -/
def Device.sendInput (d : Device) (text : List Byte) : Option DeviceResult :=
  match d with
  | .serialPort st =>
    some ⟨.serialPort (st.receive text), some (st.receive text).line, []⟩
  | .debugChannel st =>
    some ⟨.debugChannel (st.receive text), some (st.receive text).line, []⟩
  | .ram => none
  | .timer _ _ => none
  | .parallelIO _ _ => none
  | .characterDisplay _ _ => none

/-- `UpdateData(dev, d, bit)` on a device: none if it is no in-direction port (R397). -/
def Device.updateInput (d : Device) (data : Word) (bit : Line) : Option DeviceResult :=
  match d with
  | .parallelIO .input p =>
    some ⟨.parallelIO .input (p.updateData data bit).1, (p.updateData data bit).2, []⟩
  | .parallelIO .output _ => none
  | .ram => none
  | .timer _ _ => none
  | .serialPort _ => none
  | .debugChannel _ => none
  | .characterDisplay _ _ => none

/-! ## The host events (R10) -/

/-- A host event. A device is named by the index of its region. -/
inductive HostEvent where
  | reset
  | assertIRQ (n : Line)
  | deassertIRQ (n : Line)
  | setReg (r : Reg) (v : Word)
  | setCtl (n : CtlReg) (v : Word)
  | setPC (v : Word)
  | setBreakpoint (a : Word)
  | clearBreakpoint (a : Word)
  | selectMode (m : DebuggingState)
  | sendInput (dev : Nat) (text : List Byte)
  | updateData (dev : Nat) (data : Word) (bit : Line)
  | loadImage (segments : List Segment) (entry : Word) (stmts : List Word)
deriving DecidableEq, Repr

/-- What the host is answered. -/
inductive HostResult where
  /-- The event happened. -/
  | done (s : State)
  /-- The load failed and nothing changed (R466 (1)). -/
  | failed
  /-- The rules do not admit the event in this state, or on this device (10_state.md R30;
  61_devices.md R383, R397), or a segment's file length exceeds its length in memory (R466). -/
  | notAdmitted
deriving DecidableEq, Repr

/-- The host may write registers: the CPU is halted, or no Step has been run since power-on, Reset
or LoadImage (10_state.md R30; log 14). -/
def State.settersAdmitted (s : State) : Bool :=
  decide (s.runState = .halted) || !s.started

/-- An event on the device of region `k`, if that device has such an event. -/
def onDevice (s : State) (k : Nat) (f : Device → Option DeviceResult) : HostResult :=
  match s.bus[k]? with
  | none => .notAdmitted
  | some r =>
    match f r.dev with
    | none => .notAdmitted
    | some d => .done (s.applyDevice k r d)

/-- Every host event other than `Step()` (R10). None asks whether the configuration is well formed
(20_memory.md R63): only the step refuses an ill-formed one (DESIGN CHOICE, log 11). -/
def applyHost (e : HostEvent) (s : State) : HostResult :=
  match e with
  | .reset => .done s.resetEvent
  | .assertIRQ n => .done { s with irq := assertLine s.irq n }
  | .deassertIRQ n => .done { s with irq := deassertLine s.irq n }
  | .setReg r v => if s.settersAdmitted then .done (s.setReg r v) else .notAdmitted
  | .setCtl n v => if s.settersAdmitted then .done (s.setCtl n v) else .notAdmitted
  | .setPC v => if s.settersAdmitted then .done (s.setPc v) else .notAdmitted
  | .setBreakpoint a => .done { s with bp := s.bp.arm a }
  | .clearBreakpoint a => .done { s with bp := s.bp.disarm a }
  | .selectMode m => .done (s.selectMode m)
  | .sendInput k text => onDevice s k fun d => d.sendInput text
  | .updateData k data bit => onDevice s k fun d => d.updateInput data bit
  | .loadImage segments entry stmts =>
    if segments.any (fun g => decide (g.memlen < g.bytes.length)) then .notAdmitted
    else if segments.all (fun g => g.fits s.bus) then .done (s.loadImage segments entry stmts)
    else .failed

/-! ## Queries (R10; 10_state.md R30; 20_memory.md R62) -/

/-- `GetReg(i)`. -/
def hostGetReg (s : State) (r : Reg) : Word := s.getReg r

/-- `GetCtl(i)`. -/
def hostGetCtl (s : State) (n : CtlReg) : Word := s.getCtl n

/-- `GetPC()`. -/
def hostGetPC (s : State) : Word := s.pc

/-- `IsAddressValid(addr)`. -/
def hostIsAddressValid (s : State) (a : Word) : Bool := s.addressValid a

end Sys2Proof.Machine
end

