-- ==== Sys2Proof/Safety.lean ====
section
/-! DEFINITION. What claims about the machine are said in: what an instruction leaves alone, the
invariants of the machine's data, and what counts as a safe run. -/

namespace Sys2Proof.Machine

/-! ## Encodings -/

/-- Every word with this `OP` decodes to `f` of the word, whatever its other bits are (30_encoding.md
R105, R110). -/
def DecodesOp (op : BitVec 6) (f : Word → Instr) : Prop :=
  ∀ w, opField w = op → decodeWord w = .ok (f w)

/-- Every R-type word with this `OPX` decodes to `f` of the word, whatever its other bits are
(30_encoding.md R105, R110). -/
def DecodesOpx (opx : BitVec 6) (f : Word → Instr) : Prop :=
  ∀ w, opField w = 0x3A#6 → opxField w = opx → decodeWord w = .ok (f w)

/-- The instructions of this `OP` take the register `B`, the register `A` and the immediate, in this
order: every load and store, and every operation with an immediate (30_encoding.md R102). -/
def DecodesIType (op : BitVec 6) (instr : Reg → Reg → BitVec 16 → Instr) : Prop :=
  DecodesOp op fun w => instr (bField w) (aField w) (imm16Field w)

/-! ## Frames -/

/-- Everything but the general registers and the program counter: every control register, the
pending word, every byte of RAM, every device, and the host-side state. -/
def SameOutsideRegs (s t : State) : Prop :=
  (∀ n, t.getCtl n = s.getCtl n) ∧ (∀ a, t.mem.read a = s.mem.read a) ∧ t.bus = s.bus ∧
    t.irq = s.irq ∧ t.cfg = s.cfg ∧ t.runState = s.runState ∧ t.fatal = s.fatal ∧
    t.clock = s.clock ∧ t.debuggingState = s.debuggingState ∧
    t.callStackSize = s.callStackSize ∧ t.stepFrame = s.stepFrame ∧ t.bp = s.bp ∧
    t.out = s.out ∧ t.started = s.started

/-- An instruction that only writes `v` to register `r`: register 0 keeps reading 0, every other
register and everything else is unchanged, and `pc` stays `npc`. -/
def OnlyWritesReg (s t : State) (r : Reg) (v : Word) : Prop :=
  t.getReg r = (if r = 0 then 0#32 else v) ∧ (∀ q, q ≠ r → t.getReg q = s.getReg q) ∧
    t.pc = s.pc ∧ t.freeCount = s.freeCount ∧ SameOutsideRegs s t

/-- An instruction that only moves the program counter to `target`. -/
def OnlyMovesPc (s t : State) (target : Word) : Prop :=
  t.pc = target ∧ (∀ q, t.getReg q = s.getReg q) ∧ t.freeCount = s.freeCount ∧
    SameOutsideRegs s t

/-- The state after the exception issue with base address `p` (60_exceptions.md R313), and nothing
else changed. -/
def ExceptionIssued (s t : State) (p : Word) : Prop :=
  t.getCtl 1 = s.getCtl 0 ∧ t.getCtl 0 = s.getCtl 0 &&& 0xFFFFFFFE#32 ∧
    t.getReg 29 = p + 4#32 ∧ t.pc = s.cfg.excAddr ∧
    (∀ q : Reg, q ≠ 29 → t.getReg q = s.getReg q) ∧
    (∀ n : CtlReg, n ≠ 0 → n ≠ 1 → t.getCtl n = s.getCtl n) ∧
    (∀ a, t.mem.read a = s.mem.read a) ∧ t.bus = s.bus ∧ t.irq = s.irq ∧ t.cfg = s.cfg ∧
    t.runState = s.runState ∧ t.fatal = s.fatal ∧ t.clock = s.clock ∧
    t.debuggingState = s.debuggingState ∧ t.callStackSize = s.callStackSize ∧
    t.stepFrame = s.stepFrame ∧ t.bp = s.bp ∧ t.out = s.out ∧ t.freeCount = s.freeCount ∧
    t.started = s.started

/-- The events a data access leaves: one trace record when the trace is on and the form is not an io
form (20_memory.md R66, R84). -/
def accessEvents (s : State) (kind : AccessKind) (a : Word) (io : Bool) : List Event :=
  if s.cfg.traceEnabled && !io then [.trace kind a] else []

/-- An instruction that stores the low `n` bytes of `v`, the least significant first, at `ea` to
`ea + n - 1`, emits `events`, and changes no other byte, no register and nothing else. -/
def OnlyStores (s t : State) (ea : Word) (n : Nat) (v : Word) (events : List Event) : Prop :=
  (∀ k, k < n → t.mem.read (ea + BitVec.ofNat 32 k) = v.extractLsb' (8 * k) 8) ∧
    (∀ a : Word, (∀ k, k < n → a ≠ ea + BitVec.ofNat 32 k) → t.mem.read a = s.mem.read a) ∧
    (∀ q, t.getReg q = s.getReg q) ∧ t.pc = s.pc ∧ t.freeCount = s.freeCount ∧
    SameOutsideRegs { s with mem := t.mem, out := s.out ++ events } t

/-- A call: the program counter takes `target`, the link register the address of the next
instruction, the call depth grows by one, and nothing else changes. -/
def OnlyCalls (s t : State) (target : Word) : Prop :=
  t.pc = target ∧ t.getReg 31 = s.pc ∧ (∀ q : Reg, q ≠ 31 → t.getReg q = s.getReg q) ∧
    t.freeCount = s.freeCount ∧
    SameOutsideRegs { s with callStackSize := s.callStackSize + 1 } t

/-- The bytes of an access at `ea` stand in a RAM region, at an address the access may have
(20_memory.md R61, R63, R69). -/
def RamAccess (s : State) (ea : Word) (size : Size) : Prop :=
  s.isRam ea = true ∧ ea.toNat % size.bytes = 0

/-- A load with its `OP`, reading RAM: it completes, writes the extended value of its bytes to its
destination, and leaves nothing else but its trace record (47_load_store.md R280). -/
def LoadsRam (op : BitVec 6) (instr : Reg → Reg → BitVec 16 → Instr) (size : Size) (io : Bool)
    (value : Memory → Word → Word) : Prop :=
  DecodesIType op instr ∧
  ∀ (rB rA : Reg) (imm16 : BitVec 16) (s : State) (ea : Word),
    ea = s.getReg rA + imm16.signExtend 32 → RamAccess s ea size →
    ∃ t, exec (instr rB rA imm16) s = .next t ∧
      OnlyWritesReg { s with out := s.out ++ accessEvents s .load ea io } t rB (value s.mem ea)

/-- A store with its `OP`, to RAM: it completes and changes exactly its bytes, and its trace record is
all it emits (47_load_store.md R280). -/
def StoresRam (op : BitVec 6) (instr : Reg → Reg → BitVec 16 → Instr) (size : Size) (io : Bool) :
    Prop :=
  DecodesIType op instr ∧
  ∀ (rB rA : Reg) (imm16 : BitVec 16) (s : State) (ea : Word),
    ea = s.getReg rA + imm16.signExtend 32 → RamAccess s ea size → s.mem.wf = true →
    ∃ t, exec (instr rB rA imm16) s = .next t ∧
      OnlyStores s t ea size.bytes (s.getReg rB) (accessEvents s .store ea io)

/-- What a store's fatal-error record carries: the stored bits; a load's carries nothing
(20_memory.md R70, R71). -/
def fatalData (size : Size) : AccessKind → Word → Option Word
  | .store, v => some (size.truncate v)
  | _, _ => none

/-- A data access that is misaligned, or aligned and unmapped, is fatal: the record is kept and
notified, and nothing else changes (20_memory.md R70, R71; 60_exceptions.md R322). -/
def BadAccessIsFatal (instr : Reg → Reg → BitVec 16 → Instr) (kind : AccessKind) (size : Size) :
    Prop :=
  ∀ (rB rA : Reg) (imm16 : BitVec 16) (s : State) (ea : Word) (why : FatalKind),
    ea = s.getReg rA + imm16.signExtend 32 →
    (why = .misalignedAccess ∧ ea.toNat % size.bytes ≠ 0 ∨
      why = .invalidAddress ∧ ea.toNat % size.bytes = 0 ∧ s.addressValid ea = false) →
    exec (instr rB rA imm16) s = .next
      { s with
        fatal := some ⟨why, ea, size, kind, fatalData size kind (s.getReg rB)⟩
        out := s.out ++ [.fatalNotify ⟨why, ea, size, kind, fatalData size kind (s.getReg rB)⟩] }

/-- A narrow access that reaches a device other than RAM is refused (20_memory.md R76). -/
def NarrowAccessRefused (instr : Reg → Reg → BitVec 16 → Instr) (size : Size) : Prop :=
  ∀ (rB rA : Reg) (imm16 : BitVec 16) (s : State) (ea : Word) (k : Nat) (r : Region),
    ea = s.getReg rA + imm16.signExtend 32 → ea.toNat % size.bytes = 0 →
    s.resolve ea = some (k, r) → r.dev ≠ .ram →
    exec (instr rB rA imm16) s = .refused .deviceNarrowAccess

/-- A taken transfer to an aligned target only moves the program counter; one to a misaligned target
takes the exception at the address of the instruction, which is `pc - 4`, and nothing else
(45_control_flow.md R223). -/
def Transfers (i : Instr) (s : State) (target : Word) : Prop :=
  (target.toNat % 4 = 0 → ∃ t, exec i s = .next t ∧ OnlyMovesPc s t target) ∧
    (target.toNat % 4 ≠ 0 → ∃ t, exec i s = .next t ∧ ExceptionIssued s t (s.pc - 4#32))

/-- A conditional branch with its `OP`, on the relation `holds` of the registers `A` and `B`: a
transfer when it holds, no effect at all when it does not (45_control_flow.md section 4). -/
def BranchesOn (op : BitVec 6) (instr : Reg → Reg → BitVec 16 → Instr)
    (holds : Word → Word → Prop) : Prop :=
  DecodesOp op (fun w => instr (aField w) (bField w) (imm16Field w)) ∧
  ∀ (rA rB : Reg) (imm16 : BitVec 16) (s : State),
    (holds (s.getReg rA) (s.getReg rB) →
      Transfers (instr rA rB imm16) s (s.pc + imm16.signExtend 32)) ∧
    (¬ holds (s.getReg rA) (s.getReg rB) → exec (instr rA rB imm16) s = .next s)

/-! ## The clock of the timers -/

/-- A region after one `OnClock`, which a Timer has and no other device (60_exceptions.md R310;
61_devices.md R350, R362). -/
def Region.clocked (r : Region) : Region :=
  match r.dev with
  | .timer p t => { r with dev := .timer p (t.onClock p).1 }
  | _ => r

/-- The pending word after every Timer, in configuration order, has driven its line in one `OnClock`
(60_exceptions.md R310). -/
def clockedLines (irq : Word) (bus : List Region) : Word :=
  bus.foldl (fun irq r =>
    match r.dev with
    | .timer p t => driveLine irq r.irq (t.onClock p).2
    | _ => irq) irq

/-! ## Reset and loading -/

/-- A device after its Reset (61_devices.md R351, R369, R385, R401, R409): RAM keeps its bytes, a
Timer its period and an in-direction port its data. -/
def Device.afterReset : Device → Device
  | .ram => .ram
  | .timer p t => .timer p
      { period := t.period, counter := t.period, ito := false, cont := false, timeout := false,
        run := p.alwaysRun, counting := p.alwaysRun, snapshot := 0#32 }
  | .serialPort _ =>
      .serialPort { fifo := [], rxIrqEn := false, txIrqEn := false, txPending := false }
  | .debugChannel _ =>
      .debugChannel { fifo := [], rxIrqEn := false, txIrqEn := false, txPending := false }
  | .parallelIO .input p => .parallelIO .input { data := p.data, irqMask := 0#32, edgeCapture := 0#32 }
  | .parallelIO .output _ => .parallelIO .output { data := 0#32, irqMask := 0#32, edgeCapture := 0#32 }
  | .characterDisplay len _ =>
      .characterDisplay len { text := List.replicate len 0x20#8, cursor := 0 }

/-- What the Reset of the device of region `k` emits: the 32 zero bits of an out-direction port, the
blank text of a display, and nothing else (70_reset_and_hazards.md R462). -/
def Device.resetEvents (k : Nat) : Device → List Event
  | .parallelIO .output _ => (List.range 32).map fun bit => .pioOut k bit false
  | .characterDisplay len _ => [.lcdText k (List.replicate len 0x20#8)]
  | _ => []

/-- What `Reset()` leaves of every piece of the state (70_reset_and_hazards.md R460 to R463, R465).
The mode, the breakpoints, the clock, RAM and the configuration are kept; `started` and `freeCount`
are the model's own (log 14, log 6). -/
def ResetLeaves (s t : State) : Prop :=
  (∀ r, t.getReg r = 0#32) ∧ (∀ n, t.getCtl n = 0#32) ∧ t.irq = 0#32 ∧ t.pc = s.cfg.resetAddr ∧
    t.fatal = none ∧ t.runState = .run ∧ t.callStackSize = 0 ∧ t.stepFrame = 0 ∧
    t.debuggingState = s.debuggingState ∧ t.bp = s.bp ∧ t.clock = s.clock ∧ t.mem = s.mem ∧
    t.cfg = s.cfg ∧ t.bus = s.bus.map (fun r => { r with dev := r.dev.afterReset }) ∧
    t.out = s.out ++ (s.bus.mapIdx fun k r => r.dev.resetEvents k).flatten ∧
    t.started = false ∧ t.freeCount = s.freeCount

/-- A RAM region contains the whole segment, in unbounded arithmetic (70_reset_and_hazards.md R466
(1)). -/
def Segment.InRam (g : Segment) (bus : List Region) : Prop :=
  ∃ r ∈ bus, r.dev = .ram ∧ r.base.toNat ≤ g.addr.toNat ∧
    g.addr.toNat + g.memlen ≤ r.base.toNat + r.span

/-- The address is one of the segment's `memlen` bytes. -/
def Segment.Covers (g : Segment) (a : Word) : Prop :=
  g.addr.toNat ≤ a.toNat ∧ a.toNat < g.addr.toNat + g.memlen

/-! ## Invariants -/

/-- What a device's state keeps: a Timer's RUN equals its counting flag and an always-run Timer
counts (61_devices.md R361); a display has `LCD_LEN` characters and its cursor stays in them
(10_state.md R41). -/
def Device.stateOk : Device → Bool
  | .timer p t => decide (t.run = t.counting) && (!p.alwaysRun || t.counting)
  | .characterDisplay len l => decide (l.text.length = len) && decide (l.cursor < len)
  | .ram => true
  | .serialPort _ => true
  | .debugChannel _ => true
  | .parallelIO _ _ => true

/-- The data invariant: memory and breakpoints in canonical form, the cell of register 0 holds 0,
the cell of ipending holds nothing, every device's state in order. -/
def State.dataOk (s : State) : Bool :=
  s.mem.wf && s.bp.wf && decide (s.regs[0] = 0#32) && decide (s.ctl[4] = 0#32) &&
    s.bus.all (fun r => r.dev.stateOk)

/-- The line of every device that has one is at the level of its line function (61_devices.md
R352). -/
def LinesAgree (irq : Word) (bus : List Region) : Prop :=
  ∀ r ∈ bus, ∀ n l, r.irq = some n → r.dev.line = some l → irq.getLsbD n.val = l

/-- In StepOver and StepReturn the call depth has not fallen below its snapshot
(62_debug_stepping.md R438). -/
def State.depthOk (s : State) : Prop :=
  s.debuggingState = .stepOver ∨ s.debuggingState = .stepReturn → s.stepFrame ≤ s.callStackSize

/-- What the configuration fixes of a device: its kind and its parameters (20_memory.md R60). -/
def Device.sameConfig : Device → Device → Bool
  | .ram, .ram => true
  | .timer p _, .timer q _ => decide (p = q)
  | .serialPort _, .serialPort _ => true
  | .debugChannel _, .debugChannel _ => true
  | .parallelIO d _, .parallelIO e _ => decide (d = e)
  | .characterDisplay n _, .characterDisplay m _ => decide (n = m)
  | _, _ => false

/-- Two regions with the same place, span, line, name and device configuration. -/
def Region.sameConfig (r q : Region) : Bool :=
  decide (r.name = q.name) && decide (r.base = q.base) && decide (r.span = q.span) &&
    decide (r.irq = q.irq) && r.dev.sameConfig q.dev

/-- Two states of one machine: the same parameters and the same regions (20_memory.md R60). -/
def SameConfiguration (s t : State) : Prop :=
  t.cfg = s.cfg ∧ List.Forall₂ (fun r q => r.sameConfig q = true) s.bus t.bus

/-! ## Safe runs -/

/-- No fatal error has stopped the machine (60_exceptions.md R322). -/
def State.alive (s : State) : Prop := s.fatal = none

/-- A run of k Steps that is never refused and meets no fatal error. -/
def SafeRun : Nat → State → Prop
  | 0, s => s.alive
  | k + 1, s => s.alive ∧ ∃ t, step s = .next t ∧ SafeRun k t

end Sys2Proof.Machine
end

