-- ==== Sys2Proof/Certificates/Slice0/Obligations.lean ====
section
/-! DEFINITION. The statements about the model, one Prop each. The predicates they are said in stand
in Safety.lean. "D<n>" is a decision of spec/92_eei_decisions.md, "log n" a row of
notes/assumptions/. -/

section
open Sys2Proof Sys2Proof.Machine

/-! ## Encoding -/

/-- Decoding the encoding of an instruction gives the instruction back, with every operand at every
value its field admits (30_encoding.md R101 to R104). -/
def Obligations.DecodeOfEncodeIsTheInstruction : Prop :=
  ∀ i : Instr, decodeWord (encode i) = .ok i

/-- The four bytes of an encoded instruction, in memory order and in front of any others, decode to
that instruction and leave the others; the host's reading of the same bits gives it too. -/
def Obligations.EncodedBytesDecodeInFrontOfAnyRest : Prop :=
  ∀ (i : Instr) (rest : List Byte),
    decodeBytes (bytesOfWord (encode i) ++ rest) = .ok (i, rest) ∧
      decodeTableWord 32 (encode i).toNat = some i

/-- R105: the instruction is selected by `OP` alone, or by `OPX` alone when `OP` is 0x3A. Two words
that agree there are the same instruction (apart from its operands) or are both unrecognized. -/
def Obligations.OnlyOpAndOpxSelectTheInstruction : Prop :=
  ∀ w v : Word, opField w = opField v → (opField w = 0x3A#6 → opxField w = opxField v) →
    (decodeWord w).map Instr.ctorIdx = (decodeWord v).map Instr.ctorIdx

/-- R109 (its lists are general knowledge, D2): exactly the words whose `OP` is one of 18 values, or
whose `OP` is 0x3A and `OPX` one of 22, are no instruction; performing one takes the exception at
the address of the word, and nothing else. -/
def Obligations.UnassignedEncodingsTakeTheException : Prop :=
  ∀ w : Word,
    ((∃ e, decodeWord w = .error e) ↔
      (opField w).toNat ∈ [0x02, 0x09, 0x0A, 0x11, 0x12, 0x19, 0x1A, 0x1D, 0x1F, 0x21, 0x22, 0x29,
        0x2A, 0x31, 0x39, 0x3D, 0x3E, 0x3F] ∨
      ((opField w).toNat = 0x3A ∧
        (opxField w).toNat ∈ [0x00, 0x0A, 0x0F, 0x11, 0x15, 0x19, 0x21, 0x22, 0x23, 0x2A, 0x2B,
          0x2C, 0x2F, 0x32, 0x33, 0x35, 0x37, 0x38, 0x3C, 0x3D, 0x3E, 0x3F])) ∧
    ((∃ e, decodeWord w = .error e) →
      ∀ s, ∃ t, executeWord s w = .next t ∧ ExceptionIssued s t (s.pc - 4#32))

/-- Words of 95_test_vectors.md Part 2 decode to the instructions they stand for. -/
def Obligations.SampleWordsDecode : Prop :=
  decodeWord 0x10C8703A#32 = .ok (.and 4 2 3) ∧ decodeWord 0x10FFFFC4#32 = .ok (.addi 3 2 0xFFFF#16) ∧
    decodeWord 0x10C9283A#32 = .ok (.div 4 2 3) ∧ decodeWord 0x10C0010E#32 = .ok (.bge 2 3 4#16) ∧
    decodeWord 0x1008123A#32 = .ok (.roli 4 2 8#5) ∧ decodeWord 0x00020000#32 = .ok (.call 0x800#26) ∧
    decodeWord 0x100170FA#32 = .ok (.wrctl 3 2) ∧ decodeWord 0x10C00117#32 = .ok (.ldw 3 2 4#16) ∧
    decodeWord 0x10C9C032#32 = .ok (.custom 0x700#11 4 2 3) ∧ decodeWord 0xEF80083A#32 = .ok .eret

/-! ## The Step -/

/-- A Step runs the decoded instruction (60_exceptions.md R310, R311). In a well-formed
configuration, with no fatal error, when the CPU is resuming, or is running with no interrupt ready
and no halt due, and `pc` is aligned and in RAM: if the word there decodes to `i`, the Step is
`exec i` on the state in which the fetch has been traced, `pc` has moved on by 4 and the CPU runs,
and then the end of the Step (timers and clock, unless the tick ended in a fatal error). -/
def Obligations.StepRunsTheDecodedInstruction : Prop :=
  ∀ (s : State) (i : Instr), s.configOk = true → s.fatal = none →
    (s.runState = .resuming ∨
      s.runState = .run ∧ s.interruptReady = false ∧ s.shouldHalt s.pc = false) →
    s.pc.toNat % 4 = 0 → s.isRam s.pc = true →
    decodeWord (s.mem.readSize s.pc .word) = .ok i →
    step s =
      match exec i { s with
          runState := .run
          started := true
          out := s.out ++ (if s.cfg.traceEnabled then [.trace .fetch s.pc] else [])
          pc := s.pc + 4#32 } with
      | .next t => .next (finishStep t)
      | .fault f => .fault f
      | .refused r => .refused r

/-- R311, R109, R72, R75: what the Step does with a fetched word that is no instruction, and with a
fetch that reaches a device. An unassigned word in RAM takes the exception with `pc` as its base. A
word at a device is that device's ordinary read, with its side effects, where the configuration takes
the fetch as a read, and is refused where it does not (U4; D45, log 9). -/
def Obligations.StepOnAnUnassignedWordOrADevice : Prop :=
  ∀ s : State, s.configOk = true → s.fatal = none →
    (s.runState = .resuming ∨
      s.runState = .run ∧ s.interruptReady = false ∧ s.shouldHalt s.pc = false) →
    s.pc.toNat % 4 = 0 →
    (s.isRam s.pc = true → (∃ e, decodeWord (s.mem.readSize s.pc .word) = .error e) →
      ∃ t, step s = .next t.endStep ∧
        ExceptionIssued { s with
          runState := .run
          started := true
          out := s.out ++ (if s.cfg.traceEnabled then [.trace .fetch s.pc] else []) } t s.pc) ∧
    ∀ (k : Nat) (r : Region), s.resolve s.pc = some (k, r) → r.dev ≠ .ram →
      (s.cfg.deviceFetch = .refuse → step s = .refused .deviceFetch) ∧
      (s.cfg.deviceFetch = .asRead →
        step s =
          match executeWord (State.applyDevice { s with
              runState := .run
              started := true
              pc := s.pc + 4#32
              out := s.out ++ (if s.cfg.traceEnabled then [.trace .fetch s.pc] else []) } k r
              (r.dev.readReg (s.pc.toNat - r.base.toNat)).2)
            (r.dev.readReg (s.pc.toNat - r.base.toNat)).1 with
          | .next t => .next (finishStep t)
          | .fault f => .fault f
          | .refused e => .refused e)

/-- R312, R317 (1): a running CPU with PIE set and an enabled line pending takes the interrupt, with
the current `pc` as its base, whatever stands at `pc` and whether or not a halt is due there; the
Step completes, and no interrupt is ready after it. (That the masked word is tested is D7.) -/
def Obligations.EnabledInterruptIsTakenBeforeAnythingElse : Prop :=
  ∀ s : State, s.configOk = true → s.fatal = none → s.runState = .run →
    (s.getCtl 0).getLsbD 0 = true → s.irq &&& s.getCtl 3 ≠ 0#32 →
    ∃ u, ExceptionIssued { s with started := true } u s.pc ∧ step s = .next u.endStep ∧
      u.endStep.interruptReady = false

/-- R322 (a), (b), R72, R317: with no interrupt to take, an unmapped `pc` is fatal before the halt
check, and a mapped misaligned `pc` is fatal when no halt is due or the CPU is resuming; the record
is kept and notified, `pc` stays, timers and clock do not move. (The places of the checks are D13
and D22; `started` is the model's, log 14.) -/
def Obligations.BadPcIsFatal : Prop :=
  ∀ (s : State) (why : FatalKind), s.configOk = true → s.fatal = none →
    (s.runState = .resuming ∨ s.runState = .run ∧ s.interruptReady = false) →
    (why = .invalidAddress ∧ s.addressValid s.pc = false ∨
      why = .misalignedAccess ∧ s.addressValid s.pc = true ∧ s.pc.toNat % 4 ≠ 0 ∧
        (s.runState = .resuming ∨ s.shouldHalt s.pc = false)) →
    step s = .next
      { s with
        runState := .run
        started := true
        fatal := some ⟨why, s.pc, .word, .fetch, none⟩
        out := s.out ++ [.fatalNotify ⟨why, s.pc, .word, .fetch, none⟩] }

/-- R439: when a halt is due at a valid `pc` and no interrupt is ready, the Step suspends the CPU and
notifies the address once, and nothing else changes. (`started` is the model's, log 14.) -/
def Obligations.DueHaltSuspendsBeforeTheFetch : Prop :=
  ∀ s : State, s.configOk = true → s.fatal = none → s.runState = .run →
    s.interruptReady = false → s.addressValid s.pc = true → s.shouldHalt s.pc = true →
    step s = .next { s with
      runState := .halted
      started := true
      out := s.out ++ [.haltNotify s.pc] }

/-- R310, R333 (the no-op is D22, D18): a Step of a machine that is halted or stopped by a fatal
error changes nothing. A configuration that is not well formed is refused (R63; log 11). -/
def Obligations.StoppedMachineStaysPutAndIllFormedIsRefused : Prop :=
  ∀ s : State,
    (s.configOk = true → (s.fatal ≠ none ∨ s.runState = .halted) → step s = .next s) ∧
    (s.configOk = false → step s = .refused .illFormedConfiguration)

/-- R310, R34 (returning early from a stopped tick is D22, D18; an unbounded counter is D39): the clock
counts exactly the completed Steps, those that leave the machine neither halted nor stopped. A
completed Step is a CPU tick, then one `OnClock` of every Timer in configuration order and of no
other device, then the clock, and nothing else; any other Step is its tick alone, or nothing. -/
def Obligations.ClockCountsCompletedSteps : Prop :=
  ∀ s t : State, step s = .next t →
    (t.clock = if t.fatal.isSome ∨ t.runState = .halted then s.clock else s.clock + 1) ∧
    (s.fatal ≠ none ∨ s.runState = .halted → t = s) ∧
    (s.fatal = none → s.runState ≠ .halted → ∃ u, cpuTick s = .next u ∧
      t = if u.fatal.isSome ∨ u.runState = .halted then u else
        { u with
          bus := u.bus.map Region.clocked
          irq := clockedLines u.irq u.bus
          clock := u.clock + 1 })

/-! ## Exceptions -/

/-- R313 (that bit 0 is PIE is D6): the exception issue with base `p` saves status in estatus, clears
PIE, puts `p + 4` in register 29 and the exception address in `pc`, and changes nothing else. -/
def Obligations.ExceptionIssueSavesStatusAndReturnAddress : Prop :=
  ∀ (s : State) (p : Word), ExceptionIssued s (s.takeException p) p

/-- R261 to R270, R107, R108 (the numbers are D2) and the default of `UNLISTED_OPS` (D8, D9), with
their encodings: `custom`, `rdprs`, `wrprs` and `trap` always take the exception at their own
address, and so do `muli`, `nextpc` and `break` where the configuration says so. Where it asks for
the architecture's behaviour, `muli` multiplies, `nextpc` gives the next address and `break` is
refused (log 10). -/
def Obligations.UnimplementedInstructionsTakeTheException : Prop :=
  DecodesOp 0x32#6 (fun w => .custom (customField w) (cField w) (aField w) (bField w)) ∧
  DecodesIType 0x38#6 .rdprs ∧ DecodesOpx 0x14#6 (fun w => .wrprs (cField w) (aField w)) ∧
  DecodesOpx 0x2D#6 (fun _ => .trap) ∧ DecodesIType 0x24#6 .muli ∧
  DecodesOpx 0x1C#6 (fun w => .nextpc (cField w)) ∧ DecodesOpx 0x34#6 (fun _ => .brk) ∧
  ∀ (s : State) (rA rB rC : Reg) (n : BitVec 11) (imm16 : BitVec 16),
    (∃ t, exec (.custom n rC rA rB) s = .next t ∧ ExceptionIssued s t (s.pc - 4#32)) ∧
    (∃ t, exec (.rdprs rB rA imm16) s = .next t ∧ ExceptionIssued s t (s.pc - 4#32)) ∧
    (∃ t, exec (.wrprs rC rA) s = .next t ∧ ExceptionIssued s t (s.pc - 4#32)) ∧
    (∃ t, exec .trap s = .next t ∧ ExceptionIssued s t (s.pc - 4#32)) ∧
    (s.cfg.unlisted.muli = .exception →
      ∃ t, exec (.muli rB rA imm16) s = .next t ∧ ExceptionIssued s t (s.pc - 4#32)) ∧
    (s.cfg.unlisted.muli = .architectural →
      ∃ t v, exec (.muli rB rA imm16) s = .next t ∧ OnlyWritesReg s t rB v ∧
        v = BitVec.ofInt 32 ((s.getReg rA).toInt * imm16.toInt)) ∧
    (s.cfg.unlisted.nextpc = .exception →
      ∃ t, exec (.nextpc rC) s = .next t ∧ ExceptionIssued s t (s.pc - 4#32)) ∧
    (s.cfg.unlisted.nextpc = .architectural →
      ∃ t, exec (.nextpc rC) s = .next t ∧ OnlyWritesReg s t rC s.pc) ∧
    (s.cfg.unlisted.brk = .exception →
      ∃ t, exec .brk s = .next t ∧ ExceptionIssued s t (s.pc - 4#32)) ∧
    (s.cfg.unlisted.brk = .architectural → exec .brk s = .refused .breakNotModelled)

/-- R233, R108 (the unchecked target is D13, the number D2): `eret`, with its encoding, gives status
all 32 bits of estatus and `pc` register 29, and changes nothing else; after an exception with base
`p` it restores status and resumes at `p + 4` (R323). -/
def Obligations.EretRestoresStatusAndJumpsToEa : Prop :=
  DecodesOpx 0x01#6 (fun _ => .eret) ∧
  (∀ s : State, ∃ t, exec .eret s = .next t ∧ t.pc = s.getReg 29 ∧ t.getCtl 0 = s.getCtl 1 ∧
    (∀ n : CtlReg, n ≠ 0 → t.getCtl n = s.getCtl n) ∧ (∀ q, t.getReg q = s.getReg q) ∧
    t.freeCount = s.freeCount ∧ SameOutsideRegs { s with ctl := t.ctl } t) ∧
  (∀ (s : State) (p : Word), ∃ t, exec .eret (s.takeException p) = .next t ∧
    t.getCtl 0 = s.getCtl 0 ∧ t.pc = p + 4#32)

/-! ## Logic -/

/-- R130 to R133: the register forms and, or, xor, nor, with their encodings; a destination of
register 0 discards the result. -/
def Obligations.LogicOfTwoRegisters : Prop :=
  DecodesOpx 0x0E#6 (fun w => .and (cField w) (aField w) (bField w)) ∧
  DecodesOpx 0x16#6 (fun w => .or (cField w) (aField w) (bField w)) ∧
  DecodesOpx 0x1E#6 (fun w => .xor (cField w) (aField w) (bField w)) ∧
  DecodesOpx 0x06#6 (fun w => .nor (cField w) (aField w) (bField w)) ∧
  ∀ (s : State) (rC rA rB : Reg),
    (∃ t, exec (.and rC rA rB) s = .next t ∧ OnlyWritesReg s t rC (s.getReg rA &&& s.getReg rB)) ∧
    (∃ t, exec (.or rC rA rB) s = .next t ∧ OnlyWritesReg s t rC (s.getReg rA ||| s.getReg rB)) ∧
    (∃ t, exec (.xor rC rA rB) s = .next t ∧ OnlyWritesReg s t rC (s.getReg rA ^^^ s.getReg rB)) ∧
    (∃ t, exec (.nor rC rA rB) s = .next t ∧
      OnlyWritesReg s t rC (~~~(s.getReg rA ||| s.getReg rB)))

/-- R134 to R136 (the zero extension is D4): andi, ori, xori with the immediate zero-extended. -/
def Obligations.LogicWithZeroExtendedImmediate : Prop :=
  DecodesOp 0x0C#6 (fun w => .andi (bField w) (aField w) (imm16Field w)) ∧
  DecodesOp 0x14#6 (fun w => .ori (bField w) (aField w) (imm16Field w)) ∧
  DecodesOp 0x1C#6 (fun w => .xori (bField w) (aField w) (imm16Field w)) ∧
  ∀ (s : State) (rB rA : Reg) (imm16 : BitVec 16),
    (∃ t, exec (.andi rB rA imm16) s = .next t ∧
      OnlyWritesReg s t rB (s.getReg rA &&& 0#16 ++ imm16)) ∧
    (∃ t, exec (.ori rB rA imm16) s = .next t ∧
      OnlyWritesReg s t rB (s.getReg rA ||| 0#16 ++ imm16)) ∧
    (∃ t, exec (.xori rB rA imm16) s = .next t ∧
      OnlyWritesReg s t rB (s.getReg rA ^^^ 0#16 ++ imm16))

/-- R137 to R139: andhi, orhi, xorhi with the immediate in the upper 16 bits and zeros below. -/
def Obligations.LogicWithHighImmediate : Prop :=
  DecodesOp 0x2C#6 (fun w => .andhi (bField w) (aField w) (imm16Field w)) ∧
  DecodesOp 0x34#6 (fun w => .orhi (bField w) (aField w) (imm16Field w)) ∧
  DecodesOp 0x3C#6 (fun w => .xorhi (bField w) (aField w) (imm16Field w)) ∧
  ∀ (s : State) (rB rA : Reg) (imm16 : BitVec 16),
    (∃ t, exec (.andhi rB rA imm16) s = .next t ∧
      OnlyWritesReg s t rB (s.getReg rA &&& imm16 ++ 0#16)) ∧
    (∃ t, exec (.orhi rB rA imm16) s = .next t ∧
      OnlyWritesReg s t rB (s.getReg rA ||| imm16 ++ 0#16)) ∧
    (∃ t, exec (.xorhi rB rA imm16) s = .next t ∧
      OnlyWritesReg s t rB (s.getReg rA ^^^ imm16 ++ 0#16))

/-- R140: an immediate form equals its register form with a register that holds the immediate's
operand value, for every opcode that has both forms: and, or, xor with either placement, add, and
the six compares. R140 gives that value for the logic forms; for add and the compares it is R106's,
whose sign and zero extensions are D4, as are those of the logic forms. -/
def Obligations.ImmediateFormsAgreeWithRegisterForms : Prop :=
  ∀ (s : State) (rD rA rY : Reg) (imm16 : BitVec 16),
    (s.getReg rY = 0#16 ++ imm16 →
      exec (.andi rD rA imm16) s = exec (.and rD rA rY) s ∧
      exec (.ori rD rA imm16) s = exec (.or rD rA rY) s ∧
      exec (.xori rD rA imm16) s = exec (.xor rD rA rY) s ∧
      exec (.cmpgeui rD rA imm16) s = exec (.cmpgeu rD rA rY) s ∧
      exec (.cmpltui rD rA imm16) s = exec (.cmpltu rD rA rY) s) ∧
    (s.getReg rY = imm16 ++ 0#16 →
      exec (.andhi rD rA imm16) s = exec (.and rD rA rY) s ∧
      exec (.orhi rD rA imm16) s = exec (.or rD rA rY) s ∧
      exec (.xorhi rD rA imm16) s = exec (.xor rD rA rY) s) ∧
    (s.getReg rY = imm16.signExtend 32 →
      exec (.addi rD rA imm16) s = exec (.add rD rA rY) s ∧
      exec (.cmpeqi rD rA imm16) s = exec (.cmpeq rD rA rY) s ∧
      exec (.cmpnei rD rA imm16) s = exec (.cmpne rD rA rY) s ∧
      exec (.cmpgei rD rA imm16) s = exec (.cmpge rD rA rY) s ∧
      exec (.cmplti rD rA imm16) s = exec (.cmplt rD rA rY) s)

/-! ## Add, subtract, multiply, divide -/

/-- R150: add writes the sum of the unsigned operands modulo 2^32. -/
def Obligations.AddIsModulo32 : Prop :=
  DecodesOpx 0x31#6 (fun w => .add (cField w) (aField w) (bField w)) ∧
  ∀ (s : State) (rC rA rB : Reg), ∃ t v, exec (.add rC rA rB) s = .next t ∧
    OnlyWritesReg s t rC v ∧ v.toNat = ((s.getReg rA).toNat + (s.getReg rB).toNat) % 2 ^ 32

/-- R151, R152 (the sign extension is D4, the minuend D3): addi and sub, modulo 2^32. -/
def Obligations.AddImmediateAndSubtract : Prop :=
  DecodesOp 0x04#6 (fun w => .addi (bField w) (aField w) (imm16Field w)) ∧
  DecodesOpx 0x39#6 (fun w => .sub (cField w) (aField w) (bField w)) ∧
  ∀ (s : State) (rC rA rB : Reg) (imm16 : BitVec 16),
    (∃ t v, exec (.addi rB rA imm16) s = .next t ∧ OnlyWritesReg s t rB v ∧
      (v.toNat : Int) = ((s.getReg rA).toNat + imm16.toInt) % 2 ^ 32) ∧
    (∃ t v, exec (.sub rC rA rB) s = .next t ∧ OnlyWritesReg s t rC v ∧
      (v.toNat : Int) = ((s.getReg rA).toNat - (s.getReg rB).toNat) % 2 ^ 32)

/-- R161, R163: mulxss and mulxuu write bits 63:32 of the exact 64-bit product. With the low word, the
product of the low 32 bits, they make the signed and the unsigned product. -/
def Obligations.HighWordOfSignedAndUnsignedProduct : Prop :=
  DecodesOpx 0x1F#6 (fun w => .mulxss (cField w) (aField w) (bField w)) ∧
  DecodesOpx 0x07#6 (fun w => .mulxuu (cField w) (aField w) (bField w)) ∧
  ∀ (s : State) (rC rA rB : Reg),
    (∃ t v, exec (.mulxss rC rA rB) s = .next t ∧ OnlyWritesReg s t rC v ∧
      (v ++ s.getReg rA * s.getReg rB).toInt = (s.getReg rA).toInt * (s.getReg rB).toInt) ∧
    (∃ t v, exec (.mulxuu rC rA rB) s = .next t ∧ OnlyWritesReg s t rC v ∧
      (v ++ s.getReg rA * s.getReg rB).toNat = (s.getReg rA).toNat * (s.getReg rB).toNat)

/-- R160, R162 (that rA is mulxsu's signed operand is D15): mul writes the low word of the product,
mulxsu bits 63:32 of the product of a signed and an unsigned operand. -/
def Obligations.LowWordAndMixedHighWordOfProduct : Prop :=
  DecodesOpx 0x27#6 (fun w => .mul (cField w) (aField w) (bField w)) ∧
  DecodesOpx 0x17#6 (fun w => .mulxsu (cField w) (aField w) (bField w)) ∧
  ∀ (s : State) (rC rA rB : Reg),
    (∃ t v, exec (.mul rC rA rB) s = .next t ∧ OnlyWritesReg s t rC v ∧
      v.toNat = (s.getReg rA).toNat * (s.getReg rB).toNat % 2 ^ 32 ∧
      v = BitVec.ofInt 32 ((s.getReg rA).toInt * (s.getReg rB).toInt)) ∧
    (∃ t v, exec (.mulxsu rC rA rB) s = .next t ∧ OnlyWritesReg s t rC v ∧
      (v ++ s.getReg rA * s.getReg rB).toInt = (s.getReg rA).toInt * (s.getReg rB).toNat)

/-- R165: divu writes the rounded-down unsigned quotient; a zero divisor leaves the destination, and
everything else, as it was. -/
def Obligations.UnsignedDivide : Prop :=
  DecodesOpx 0x24#6 (fun w => .divu (cField w) (aField w) (bField w)) ∧
  ∀ (s : State) (rC rA rB : Reg),
    (s.getReg rB = 0#32 → exec (.divu rC rA rB) s = .next s) ∧
    (s.getReg rB ≠ 0#32 → ∃ t v, exec (.divu rC rA rB) s = .next t ∧ OnlyWritesReg s t rC v ∧
      v.toNat = (s.getReg rA).toNat / (s.getReg rB).toNat)

/-- R164 (rounding toward zero and the dividend are D14): div writes the signed quotient rounded
toward zero; a zero divisor changes nothing; 0x80000000 by -1 writes some value that nothing fixes
(log 6: the model's choice, U1) and changes nothing else of the spec's state. -/
def Obligations.SignedDivide : Prop :=
  DecodesOpx 0x25#6 (fun w => .div (cField w) (aField w) (bField w)) ∧
  ∀ (s : State) (rC rA rB : Reg),
    (s.getReg rB = 0#32 → exec (.div rC rA rB) s = .next s) ∧
    (s.getReg rB ≠ 0#32 → ¬ (s.getReg rA = 0x80000000#32 ∧ s.getReg rB = 0xFFFFFFFF#32) →
      ∃ t v, exec (.div rC rA rB) s = .next t ∧ OnlyWritesReg s t rC v ∧
        v.toInt = (s.getReg rA).toInt.tdiv (s.getReg rB).toInt) ∧
    (s.getReg rA = 0x80000000#32 → s.getReg rB = 0xFFFFFFFF#32 →
      ∃ t v, exec (.div rC rA rB) s = .next t ∧
        OnlyWritesReg { s with freeCount := s.freeCount + 1 } t rC v)

/-! ## Compare -/

/-- R180 to R185: the six register compares write 1 when the relation holds and 0 when not. -/
def Obligations.CompareOfTwoRegisters : Prop :=
  DecodesOpx 0x20#6 (fun w => .cmpeq (cField w) (aField w) (bField w)) ∧
  DecodesOpx 0x18#6 (fun w => .cmpne (cField w) (aField w) (bField w)) ∧
  DecodesOpx 0x08#6 (fun w => .cmpge (cField w) (aField w) (bField w)) ∧
  DecodesOpx 0x28#6 (fun w => .cmpgeu (cField w) (aField w) (bField w)) ∧
  DecodesOpx 0x10#6 (fun w => .cmplt (cField w) (aField w) (bField w)) ∧
  DecodesOpx 0x30#6 (fun w => .cmpltu (cField w) (aField w) (bField w)) ∧
  ∀ (s : State) (rC rA rB : Reg),
    (∃ t, exec (.cmpeq rC rA rB) s = .next t ∧
      OnlyWritesReg s t rC (if s.getReg rA = s.getReg rB then 1#32 else 0#32)) ∧
    (∃ t, exec (.cmpne rC rA rB) s = .next t ∧
      OnlyWritesReg s t rC (if s.getReg rA ≠ s.getReg rB then 1#32 else 0#32)) ∧
    (∃ t, exec (.cmpge rC rA rB) s = .next t ∧
      OnlyWritesReg s t rC (if (s.getReg rA).toInt ≥ (s.getReg rB).toInt then 1#32 else 0#32)) ∧
    (∃ t, exec (.cmpgeu rC rA rB) s = .next t ∧
      OnlyWritesReg s t rC (if (s.getReg rA).toNat ≥ (s.getReg rB).toNat then 1#32 else 0#32)) ∧
    (∃ t, exec (.cmplt rC rA rB) s = .next t ∧
      OnlyWritesReg s t rC (if (s.getReg rA).toInt < (s.getReg rB).toInt then 1#32 else 0#32)) ∧
    (∃ t, exec (.cmpltu rC rA rB) s = .next t ∧
      OnlyWritesReg s t rC (if (s.getReg rA).toNat < (s.getReg rB).toNat then 1#32 else 0#32))

/-- R186 to R191 (the extensions are D4): the immediate compares, with the immediate read as a signed
number for equality and the signed relations, and as an unsigned one for the unsigned relations. -/
def Obligations.CompareWithImmediate : Prop :=
  DecodesOp 0x20#6 (fun w => .cmpeqi (bField w) (aField w) (imm16Field w)) ∧
  DecodesOp 0x18#6 (fun w => .cmpnei (bField w) (aField w) (imm16Field w)) ∧
  DecodesOp 0x08#6 (fun w => .cmpgei (bField w) (aField w) (imm16Field w)) ∧
  DecodesOp 0x28#6 (fun w => .cmpgeui (bField w) (aField w) (imm16Field w)) ∧
  DecodesOp 0x10#6 (fun w => .cmplti (bField w) (aField w) (imm16Field w)) ∧
  DecodesOp 0x30#6 (fun w => .cmpltui (bField w) (aField w) (imm16Field w)) ∧
  ∀ (s : State) (rB rA : Reg) (imm16 : BitVec 16),
    (∃ t, exec (.cmpeqi rB rA imm16) s = .next t ∧
      OnlyWritesReg s t rB (if (s.getReg rA).toInt = imm16.toInt then 1#32 else 0#32)) ∧
    (∃ t, exec (.cmpnei rB rA imm16) s = .next t ∧
      OnlyWritesReg s t rB (if (s.getReg rA).toInt ≠ imm16.toInt then 1#32 else 0#32)) ∧
    (∃ t, exec (.cmpgei rB rA imm16) s = .next t ∧
      OnlyWritesReg s t rB (if (s.getReg rA).toInt ≥ imm16.toInt then 1#32 else 0#32)) ∧
    (∃ t, exec (.cmpgeui rB rA imm16) s = .next t ∧
      OnlyWritesReg s t rB (if (s.getReg rA).toNat ≥ imm16.toNat then 1#32 else 0#32)) ∧
    (∃ t, exec (.cmplti rB rA imm16) s = .next t ∧
      OnlyWritesReg s t rB (if (s.getReg rA).toInt < imm16.toInt then 1#32 else 0#32)) ∧
    (∃ t, exec (.cmpltui rB rA imm16) s = .next t ∧
      OnlyWritesReg s t rB (if (s.getReg rA).toNat < imm16.toNat then 1#32 else 0#32))

/-! ## Shift and rotate -/

/-- R200, R202, R203, R205, R207: the register forms, by the amount `x[B] mod 32`. Bit by bit for the
rotates and the logical shifts, the rounded-down quotient by 2^n for the arithmetic one. -/
def Obligations.ShiftAndRotateByRegister : Prop :=
  DecodesOpx 0x03#6 (fun w => .rol (cField w) (aField w) (bField w)) ∧
  DecodesOpx 0x0B#6 (fun w => .ror (cField w) (aField w) (bField w)) ∧
  DecodesOpx 0x13#6 (fun w => .sll (cField w) (aField w) (bField w)) ∧
  DecodesOpx 0x1B#6 (fun w => .srl (cField w) (aField w) (bField w)) ∧
  DecodesOpx 0x3B#6 (fun w => .sra (cField w) (aField w) (bField w)) ∧
  ∀ (s : State) (rC rA rB : Reg) (n : Nat), n = (s.getReg rB).toNat % 32 →
    (∃ t v, exec (.rol rC rA rB) s = .next t ∧ OnlyWritesReg s t rC v ∧
      ∀ k, k < 32 → v.getLsbD ((k + n) % 32) = (s.getReg rA).getLsbD k) ∧
    (∃ t v, exec (.ror rC rA rB) s = .next t ∧ OnlyWritesReg s t rC v ∧
      ∀ k, k < 32 → v.getLsbD k = (s.getReg rA).getLsbD ((k + n) % 32)) ∧
    (∃ t v, exec (.sll rC rA rB) s = .next t ∧ OnlyWritesReg s t rC v ∧
      ∀ k, k < 32 → v.getLsbD k = (decide (n ≤ k) && (s.getReg rA).getLsbD (k - n))) ∧
    (∃ t v, exec (.srl rC rA rB) s = .next t ∧ OnlyWritesReg s t rC v ∧
      ∀ k, k < 32 → v.getLsbD k = (decide (k + n < 32) && (s.getReg rA).getLsbD (k + n))) ∧
    (∃ t v, exec (.sra rC rA rB) s = .next t ∧ OnlyWritesReg s t rC v ∧
      v.toInt = (s.getReg rA).toInt / 2 ^ n)

/-- R201, R204, R206, R208: the immediate forms, by the amount `IMM5`. -/
def Obligations.ShiftAndRotateByImmediate : Prop :=
  DecodesOpx 0x02#6 (fun w => .roli (cField w) (aField w) (imm5Field w)) ∧
  DecodesOpx 0x12#6 (fun w => .slli (cField w) (aField w) (imm5Field w)) ∧
  DecodesOpx 0x1A#6 (fun w => .srli (cField w) (aField w) (imm5Field w)) ∧
  DecodesOpx 0x3A#6 (fun w => .srai (cField w) (aField w) (imm5Field w)) ∧
  ∀ (s : State) (rC rA : Reg) (imm5 : BitVec 5),
    (∃ t v, exec (.roli rC rA imm5) s = .next t ∧ OnlyWritesReg s t rC v ∧
      ∀ k, k < 32 → v.getLsbD ((k + imm5.toNat) % 32) = (s.getReg rA).getLsbD k) ∧
    (∃ t v, exec (.slli rC rA imm5) s = .next t ∧ OnlyWritesReg s t rC v ∧
      v.toNat = (s.getReg rA).toNat * 2 ^ imm5.toNat % 2 ^ 32) ∧
    (∃ t v, exec (.srli rC rA imm5) s = .next t ∧ OnlyWritesReg s t rC v ∧
      v.toNat = (s.getReg rA).toNat / 2 ^ imm5.toNat) ∧
    (∃ t v, exec (.srai rC rA imm5) s = .next t ∧ OnlyWritesReg s t rC v ∧
      v.toInt = (s.getReg rA).toInt / 2 ^ imm5.toNat)

/-! ## Control transfer -/

/-- R220 to R223, R107, R108 (the check's place and its base are D11, the segment of jmpi is D12, the
numbers D2): jmp and br, with their encodings, transfer to their targets, jmpi to the word `IMM26` of
the segment of the next address, which is always aligned. While an instruction executes, `pc` is the
next address. -/
def Obligations.UnconditionalJumps : Prop :=
  DecodesOpx 0x0D#6 (fun w => .jmp (aField w)) ∧ DecodesOp 0x06#6 (fun w => .br (imm16Field w)) ∧
  DecodesOp 0x01#6 (fun w => .jmpi (imm26Field w)) ∧
  ∀ (s : State) (rA : Reg) (imm16 : BitVec 16) (imm26 : BitVec 26),
    Transfers (.jmp rA) s (s.getReg rA) ∧
    Transfers (.br imm16) s (s.pc + imm16.signExtend 32) ∧
    (∃ t target, exec (.jmpi imm26) s = .next t ∧ OnlyMovesPc s t target ∧
      target.toNat = s.pc.toNat / 2 ^ 28 * 2 ^ 28 + imm26.toNat * 4)

/-- R224, R225, R107, R108 (D11, D12; the numbers are D2): call and callr, with their encodings, put
the next address in register 31, jump, and deepen the call depth by one; callr reads its target
first, and a misaligned target takes the exception with neither effect. -/
def Obligations.CallsSaveTheNextAddress : Prop :=
  DecodesOp 0x00#6 (fun w => .call (imm26Field w)) ∧ DecodesOpx 0x1D#6 (fun w => .callr (aField w)) ∧
  ∀ (s : State) (rA : Reg) (imm26 : BitVec 26),
    (∃ t target, exec (.call imm26) s = .next t ∧ OnlyCalls s t target ∧
      target.toNat = s.pc.toNat / 2 ^ 28 * 2 ^ 28 + imm26.toNat * 4) ∧
    ((s.getReg rA).toNat % 4 = 0 →
      ∃ t, exec (.callr rA) s = .next t ∧ OnlyCalls s t (s.getReg rA)) ∧
    ((s.getReg rA).toNat % 4 ≠ 0 →
      ∃ t, exec (.callr rA) s = .next t ∧ ExceptionIssued s t (s.pc - 4#32))

/-- R226 to R231, R107 (the check only of a taken branch is D11, the numbers D2): the six conditional
branches, with their encodings, on their relation of register A to register B. -/
def Obligations.ConditionalBranches : Prop :=
  BranchesOn 0x26#6 .beq (fun a b => a = b) ∧ BranchesOn 0x1E#6 .bne (fun a b => a ≠ b) ∧
  BranchesOn 0x0E#6 .bge (fun a b => a.toInt ≥ b.toInt) ∧
  BranchesOn 0x2E#6 .bgeu (fun a b => a.toNat ≥ b.toNat) ∧
  BranchesOn 0x16#6 .blt (fun a b => a.toInt < b.toInt) ∧
  BranchesOn 0x36#6 .bltu (fun a b => a.toNat < b.toNat)

/-- R232, R434, R108 (the unchecked target is D13, the unconditional count D36, the number D2): ret,
with its encoding, jumps to register 31, makes the call depth one less, and in StepOver or StepReturn
turns the mode into StepInto when the new depth is below the snapshot. -/
def Obligations.RetJumpsToTheLinkRegister : Prop :=
  DecodesOpx 0x05#6 (fun _ => .ret) ∧
  ∀ s : State, ∃ t, exec .ret s = .next t ∧ t.pc = s.getReg 31 ∧
    (∀ q, t.getReg q = s.getReg q) ∧ t.freeCount = s.freeCount ∧
    SameOutsideRegs
      { s with
        callStackSize := s.callStackSize - 1
        debuggingState :=
          if (s.debuggingState = .stepOver ∨ s.debuggingState = .stepReturn) ∧
              s.callStackSize - 1 < s.stepFrame
          then .stepInto else s.debuggingState } t

/-- R234, R252 to R259: bret, sync, flushp and the cache instructions have no effect at all: `pc`
stays the next address. -/
def Obligations.NoOperationInstructions : Prop :=
  DecodesOpx 0x09#6 (fun _ => .bret) ∧ DecodesOpx 0x36#6 (fun _ => .sync) ∧
  DecodesOpx 0x04#6 (fun _ => .flushp) ∧ DecodesOpx 0x0C#6 (fun w => .flushi (aField w)) ∧
  DecodesOp 0x3B#6 (fun w => .flushd (aField w) (imm16Field w)) ∧
  DecodesOp 0x1B#6 (fun w => .flushda (aField w) (imm16Field w)) ∧
  DecodesOpx 0x29#6 (fun w => .initi (aField w)) ∧
  DecodesOp 0x33#6 (fun w => .initd (aField w) (imm16Field w)) ∧
  DecodesOp 0x13#6 (fun w => .initda (aField w) (imm16Field w)) ∧
  ∀ (s : State) (rA : Reg) (imm16 : BitVec 16),
    exec .bret s = .next s ∧ exec .sync s = .next s ∧ exec .flushp s = .next s ∧
    exec (.flushi rA) s = .next s ∧ exec (.flushd rA imm16) s = .next s ∧
    exec (.flushda rA imm16) s = .next s ∧ exec (.initi rA) s = .next s ∧
    exec (.initd rA imm16) s = .next s ∧ exec (.initda rA imm16) s = .next s

/-- R235: call, and callr after a passed alignment check, increment the call depth; ret decrements
it; no other instruction, and no exception or interrupt entry, changes it. -/
def Obligations.OnlyCallsAndRetChangeTheCallDepth : Prop :=
  (∀ (i : Instr) (s t : State), exec i s = .next t →
    t.callStackSize = s.callStackSize +
      match i with
      | .call _ => 1
      | .callr rA => if (s.getReg rA).toNat % 4 = 0 then 1 else 0
      | .ret => -1
      | _ => 0) ∧
  ∀ (s : State) (p : Word), (s.takeException p).callStackSize = s.callStackSize

/-! ## Control registers -/

/-- R250 (that `IMM5` carries the number is D4): rdctl writes the control register to its
destination, for number 4 the pending word masked by ienable. -/
def Obligations.RdctlReadsTheControlRegister : Prop :=
  DecodesOpx 0x26#6 (fun w => .rdctl (cField w) (imm5Field w).toFin) ∧
  ∀ (s : State) (rC : Reg) (n : CtlReg), ∃ t, exec (.rdctl rC n) s = .next t ∧
    OnlyWritesReg s t rC (if n = 4 then s.irq &&& s.ctl[3] else s.ctl[n])

/-- R251, R28 (that a write of number 4 is ignored is D6): wrctl stores all 32 bits in the control
register it names and in no other; number 4 stays the masked pending word. -/
def Obligations.WrctlWritesTheControlRegister : Prop :=
  DecodesOpx 0x2E#6 (fun w => .wrctl (imm5Field w).toFin (aField w)) ∧
  ∀ (s : State) (n : CtlReg) (rA : Reg), ∃ t, exec (.wrctl n rA) s = .next t ∧
    (n ≠ 4 → t.getCtl n = s.getReg rA) ∧
    (∀ m : CtlReg, m ≠ n → m ≠ 4 → t.getCtl m = s.getCtl m) ∧
    t.getCtl 4 = s.irq &&& t.getCtl 3 ∧
    t.pc = s.pc ∧ (∀ q, t.getReg q = s.getReg q) ∧ t.freeCount = s.freeCount ∧
    SameOutsideRegs { s with ctl := t.ctl } t

/-- R316: AssertIRQ sets, and DeassertIRQ clears, one bit of the pending word and nothing else; the
calls are idempotent, a device with no line drives nothing, and ipending follows. -/
def Obligations.InterruptLinesSetAndClearOneBit : Prop :=
  (∀ (s : State) (n : Line), ∃ t u,
    applyHost (.assertIRQ n) s = .done t ∧ applyHost (.deassertIRQ n) s = .done u ∧
    t = { s with irq := t.irq } ∧ u = { s with irq := u.irq } ∧
    (∀ k, k < 32 → t.irq.getLsbD k = (decide (k = n.val) || s.irq.getLsbD k)) ∧
    (∀ k, k < 32 → u.irq.getLsbD k = (!decide (k = n.val) && s.irq.getLsbD k)) ∧
    applyHost (.assertIRQ n) t = .done t ∧ applyHost (.deassertIRQ n) u = .done u ∧
    t.getCtl 4 = t.irq &&& s.getCtl 3 ∧ u.getCtl 4 = u.irq &&& s.getCtl 3) ∧
  (∀ (irq : Word) (level : Option Bool), driveLine irq none level = irq) ∧
  ∀ (irq : Word) (n : Line), driveLine irq (some n) (some true) = assertLine irq n ∧
    driveLine irq (some n) (some false) = deassertLine irq n

/-! ## Loads and stores -/

/-- R280 to R290, R68, R107 (the extensions are D4, the byte order D16, the numbers D2): every load,
with its encoding, completes when it reads RAM and writes its bytes, the lowest address least
significant, sign- or zero-extended, to its destination; an io form leaves no trace record. -/
def Obligations.LoadsFromRamReadTheirBytes : Prop :=
  LoadsRam 0x07#6 .ldb .byte false (fun m a => (m.read a).signExtend 32) ∧
  LoadsRam 0x03#6 .ldbu .byte false (fun m a => 0#24 ++ m.read a) ∧
  LoadsRam 0x0F#6 .ldh .half false (fun m a => (m.read (a + 1#32) ++ m.read a).signExtend 32) ∧
  LoadsRam 0x0B#6 .ldhu .half false (fun m a => 0#16 ++ m.read (a + 1#32) ++ m.read a) ∧
  LoadsRam 0x17#6 .ldw .word false (fun m a =>
    m.read (a + 3#32) ++ m.read (a + 2#32) ++ m.read (a + 1#32) ++ m.read a) ∧
  LoadsRam 0x27#6 .ldbio .byte true (fun m a => (m.read a).signExtend 32) ∧
  LoadsRam 0x23#6 .ldbuio .byte true (fun m a => 0#24 ++ m.read a) ∧
  LoadsRam 0x2F#6 .ldhio .half true (fun m a => (m.read (a + 1#32) ++ m.read a).signExtend 32) ∧
  LoadsRam 0x2B#6 .ldhuio .half true (fun m a => 0#16 ++ m.read (a + 1#32) ++ m.read a) ∧
  LoadsRam 0x37#6 .ldwio .word true (fun m a =>
    m.read (a + 3#32) ++ m.read (a + 2#32) ++ m.read (a + 1#32) ++ m.read a)

/-- R280, R291 to R296, R68, R107 (the byte order is D16, the numbers D2): every store, with its
encoding, completes when it reaches RAM and changes exactly the bytes of its width at its effective
address, to the low bits of its source, least significant first; an io form leaves no trace
record. -/
def Obligations.StoresToRamChangeOnlyTheirBytes : Prop :=
  StoresRam 0x05#6 .stb .byte false ∧ StoresRam 0x0D#6 .sth .half false ∧
  StoresRam 0x15#6 .stw .word false ∧ StoresRam 0x25#6 .stbio .byte true ∧
  StoresRam 0x2D#6 .sthio .half true ∧ StoresRam 0x35#6 .stwio .word true

/-- R69 to R71, R322 (c), (d) (alignment before validity is D17): a misaligned data access, or an
aligned one to an unmapped address, is fatal: the record is kept and notified, and no register, no
byte and no device is touched. -/
def Obligations.BadDataAccessIsFatal : Prop :=
  BadAccessIsFatal .ldb .load .byte ∧ BadAccessIsFatal .ldbu .load .byte ∧
  BadAccessIsFatal .ldh .load .half ∧ BadAccessIsFatal .ldhu .load .half ∧
  BadAccessIsFatal .ldw .load .word ∧ BadAccessIsFatal .ldbio .load .byte ∧
  BadAccessIsFatal .ldbuio .load .byte ∧ BadAccessIsFatal .ldhio .load .half ∧
  BadAccessIsFatal .ldhuio .load .half ∧ BadAccessIsFatal .ldwio .load .word ∧
  BadAccessIsFatal .stb .store .byte ∧ BadAccessIsFatal .sth .store .half ∧
  BadAccessIsFatal .stw .store .word ∧ BadAccessIsFatal .stbio .store .byte ∧
  BadAccessIsFatal .sthio .store .half ∧ BadAccessIsFatal .stwio .store .word

/-- R76 (the refusal is D19; U2, log 7): an 8-bit or 16-bit access that reaches a device other than
RAM is refused. -/
def Obligations.NarrowDeviceAccessIsRefused : Prop :=
  NarrowAccessRefused .ldb .byte ∧ NarrowAccessRefused .ldbu .byte ∧
  NarrowAccessRefused .ldh .half ∧ NarrowAccessRefused .ldhu .half ∧
  NarrowAccessRefused .ldbio .byte ∧ NarrowAccessRefused .ldbuio .byte ∧
  NarrowAccessRefused .ldhio .half ∧ NarrowAccessRefused .ldhuio .half ∧
  NarrowAccessRefused .stb .byte ∧ NarrowAccessRefused .sth .half ∧
  NarrowAccessRefused .stbio .byte ∧ NarrowAccessRefused .sthio .half

/-- R64, R65, R67, R84: a word access that reaches a device register is that device's read or write
at the offset from its region's base, with the line and the events it leaves; the io form differs
only in leaving no trace record. What the device refuses (log 8) is refused. -/
def Obligations.WordAccessReachesTheDeviceRegister : Prop :=
  ∀ (s : State) (rB rA : Reg) (imm16 : BitVec 16) (ea : Word) (k off : Nat) (r : Region),
    ea = s.getReg rA + imm16.signExtend 32 → ea.toNat % 4 = 0 → s.configOk = true →
    s.resolve ea = some (k, r) → r.dev ≠ .ram → off = ea.toNat - r.base.toNat →
    exec (.ldwio rB rA imm16) s =
      .next ((s.applyDevice k r (r.dev.readReg off).2).setReg rB (r.dev.readReg off).1) ∧
    exec (.ldw rB rA imm16) s =
      .next (((s.emit (accessEvents s .load ea false)).applyDevice k r
        (r.dev.readReg off).2).setReg rB (r.dev.readReg off).1) ∧
    (∀ d, r.dev.writeReg k off (s.getReg rB) = .ok d →
      exec (.stwio rB rA imm16) s = .next (s.applyDevice k r d) ∧
      exec (.stw rB rA imm16) s =
        .next ((s.emit (accessEvents s .store ea false)).applyDevice k r d)) ∧
    (∀ e, r.dev.writeReg k off (s.getReg rB) = .error e →
      exec (.stwio rB rA imm16) s = .refused e ∧ exec (.stw rB rA imm16) s = .refused e)

/-- R79, R297: a word stored to RAM is what the next load of it gives, and its bytes read back least
significant first. -/
def Obligations.LoadAfterStoreGivesTheStoredWord : Prop :=
  ∀ (s : State) (rB rA rD rE : Reg) (imm16 : BitVec 16) (ea : Word) (k : Nat),
    ea = s.getReg rA + imm16.signExtend 32 → RamAccess s ea .word → s.configOk = true →
    s.mem.wf = true → rD ≠ 0 → rE ≠ 0 → k < 4 →
    ∃ t u v, exec (.stw rB rA imm16) s = .next t ∧ exec (.ldw rD rA imm16) t = .next u ∧
      u.getReg rD = s.getReg rB ∧
      exec (.ldbu rD rE 0#16) (t.setReg rE (ea + BitVec.ofNat 32 k)) = .next v ∧
      v.getReg rD = 0#24 ++ (s.getReg rB).extractLsb' (8 * k) 8

/-! ## Devices -/

/-- R371, R362: from a full counter, a counting Timer with period P shows no timeout and drives no
line for P clocks, its counter falling by one each time; the next clock reloads the counter, sets
TO, raises the line if ITO is set, and counts on exactly when it is always running or continuous. -/
def Obligations.TimerTimesOutAfterPeriodPlusOneClocks : Prop :=
  ∀ (p : TimerParams) (t : TimerState), t.counting = true → t.counter = t.period →
    (∀ n, n ≤ t.period.toNat →
      (fun u => (TimerState.onClock p u).1)^[n] t =
        { t with counter := t.period - BitVec.ofNat 32 n }) ∧
    (∀ n, n < t.period.toNat →
      (TimerState.onClock p ((fun u => (TimerState.onClock p u).1)^[n] t)).2 = none) ∧
    (fun u => (TimerState.onClock p u).1)^[t.period.toNat + 1] t =
      { t with
        timeout := true
        run := p.alwaysRun || t.cont
        counting := p.alwaysRun || t.cont } ∧
    (TimerState.onClock p ((fun u => (TimerState.onClock p u).1)^[t.period.toNat] t)).2 =
      if t.ito then some true else none

/-- R364 to R366 (D28): the effects of a status, a control and a period write on a Timer, and the
line each leaves; START with STOP on a timer that is not always running is refused (U3, log 8). -/
def Obligations.TimerRegisterWrites : Prop :=
  ∀ (p : TimerParams) (t : TimerState) (dev : Nat) (v : Word),
    Device.writeReg (.timer p t) dev 0 v =
      .ok ⟨.timer p { t with timeout := false }, some false, []⟩ ∧
    (p.alwaysRun = false → v.getLsbD 2 = true → v.getLsbD 3 = true →
      Device.writeReg (.timer p t) dev 4 v = .error .timerStartAndStop) ∧
    (¬ (p.alwaysRun = false ∧ v.getLsbD 2 = true ∧ v.getLsbD 3 = true) →
      Device.writeReg (.timer p t) dev 4 v =
        .ok ⟨.timer p { t with
            ito := v.getLsbD 0
            cont := v.getLsbD 1
            counting := if p.alwaysRun then t.counting
              else (v.getLsbD 2 || (t.counting && !v.getLsbD 3))
            run := if p.alwaysRun then t.run else (v.getLsbD 2 || (t.run && !v.getLsbD 3)) },
          some (t.timeout && v.getLsbD 0), []⟩) ∧
    (∀ off, off = 8 ∨ off = 12 →
      (p.fixedPeriod = true →
        Device.writeReg (.timer p t) dev off v = .ok ⟨.timer p t, none, []⟩) ∧
      (p.fixedPeriod = false → ∃ q : Word,
        q.extractLsb' 0 16 = (if off = 8 then v else t.period).extractLsb' 0 16 ∧
        q.extractLsb' 16 16 = (if off = 8 then t.period.extractLsb' 16 16 else v.extractLsb' 0 16) ∧
        Device.writeReg (.timer p t) dev off v =
          .ok ⟨.timer p { t with
              period := q
              counter := q
              counting := p.alwaysRun && t.counting
              run := p.alwaysRun && t.run }, none, []⟩))

/-- R378, R383, R386 (the field places are D31, the empty value D32): bytes sent to a serial device
with an empty FIFO are read back in order, one by each read of the data register: by a SerialPort
as the bare byte, by a DebugChannel with RVALID and the number of bytes left; then reads give 0. -/
def Obligations.SerialInputIsReadInOrder : Prop :=
  ∀ (st : SerialState) (text : List Byte), st.fifo = [] →
    (∀ (k : Nat) (h : k < text.length),
      ((fun d => (Device.readReg d 0).2.dev)^[k] (.serialPort (st.receive text))).readReg 0 =
        (0#24 ++ text[k],
          ⟨.serialPort { st with fifo := text.drop (k + 1) },
            some ((st.rxIrqEn && decide (k + 1 < text.length)) || st.txPending), []⟩)) ∧
    (∀ (k : Nat) (h : k < text.length),
      ((fun d => (Device.readReg d 0).2.dev)^[k] (.debugChannel (st.receive text))).readReg 0 =
        (BitVec.ofNat 16 (min (text.length - (k + 1)) 0xFFFF) ++ 0x80#8 ++ text[k],
          ⟨.debugChannel { st with fifo := text.drop (k + 1) },
            some ((st.rxIrqEn && decide (k + 1 < text.length)) || st.txPending), []⟩)) ∧
    (Device.readReg (.serialPort st) 0).1 = 0#32 ∧ (Device.readReg (.debugChannel st) 0).1 = 0#32

/-- R395, R397 to R400 (D33): an external input captures exactly its own bit and raises the line
exactly when that bit is unmasked, which keeps the line at the line function; a mask write and a
capture write re-evaluate it; an out-direction data write forwards all 32 bits in order. -/
def Obligations.ParallelIoCapturesAndForwardsBits : Prop :=
  ∀ (p : PioState) (d v : Word) (bit : Line) (dev : Nat),
    (∃ q : PioState, p.updateData d bit =
        (q, if p.irqMask.getLsbD bit.val then some true else none) ∧
      q.data = d ∧ q.irqMask = p.irqMask ∧
      (∀ k, k < 32 → q.edgeCapture.getLsbD k =
        (decide (k = bit.val) || p.edgeCapture.getLsbD k)) ∧
      q.line = (p.irqMask.getLsbD bit.val || p.line)) ∧
    Device.writeReg (.parallelIO .input p) dev 0 v = .ok ⟨.parallelIO .input p, none, []⟩ ∧
    (∃ events, Device.writeReg (.parallelIO .output p) dev 0 v =
        .ok ⟨.parallelIO .output { p with data := v }, none, events⟩ ∧
      events.length = 32 ∧ ∀ k, k < 32 → events[k]? = some (.pioOut dev k (v.getLsbD k))) ∧
    ∀ dir, Device.writeReg (.parallelIO dir p) dev 8 v =
        .ok ⟨.parallelIO dir { p with irqMask := v },
          some (decide (∃ k : Line, p.edgeCapture.getLsbD k.val = true ∧ v.getLsbD k.val = true)),
          []⟩ ∧
      Device.writeReg (.parallelIO dir p) dev 12 v =
        .ok ⟨.parallelIO dir { p with edgeCapture := 0#32 }, some false, []⟩

/-- R406, R407 (D34): the display's commands, compared over all 32 bits, and a character written at
the cursor, which moves on and wraps; a change of the text emits the whole text. -/
def Obligations.DisplayCommandsAndCharacters : Prop :=
  ∀ (len dev : Nat) (l : LcdState) (v : Word), l.text.length = len → l.cursor < len →
    Device.writeReg (.characterDisplay len l) dev 0 v = .ok
      (if v = 1#32 then
        ⟨.characterDisplay len { text := List.replicate len 0x20#8, cursor := 0 }, none,
          [.lcdText dev (List.replicate len 0x20#8)]⟩
      else if v = 0x80#32 then ⟨.characterDisplay len { l with cursor := 0 }, none, []⟩
      else if v = 0xC0#32 then ⟨.characterDisplay len { l with cursor := len / 2 }, none, []⟩
      else ⟨.characterDisplay len l, none, []⟩) ∧
    ∃ text, text.length = len ∧
      (∀ i, i < len → text[i]? = if i = l.cursor then some (v.extractLsb' 0 8) else l.text[i]?) ∧
      Device.writeReg (.characterDisplay len l) dev 8 v = .ok
        ⟨.characterDisplay len
            { text := text, cursor := if l.cursor + 1 = len then 0 else l.cursor + 1 },
          none, [.lcdText dev text]⟩

/-! ## Breakpoints and stepping -/

/-- R431, R432 (D35): setting a breakpoint adds one to the count of its address, clearing takes one
away but never below 0, and other addresses keep their counts; nothing else changes. -/
def Obligations.BreakpointCountsGoUpAndDownByOne : Prop :=
  ∀ (s : State) (a b : Word), s.bp.wf = true → ∃ t u,
    applyHost (.setBreakpoint a) s = .done t ∧ applyHost (.clearBreakpoint a) s = .done u ∧
    t = { s with bp := t.bp } ∧ u = { s with bp := u.bp } ∧ t.bp.wf = true ∧ u.bp.wf = true ∧
    t.bp.count b = (if b = a then s.bp.count a + 1 else s.bp.count b) ∧
    u.bp.count b = (if b = a then s.bp.count a - 1 else s.bp.count b)

/-- R435: the halt decision in each of the five modes, from whether the address has a breakpoint and
whether it is a statement boundary. -/
def Obligations.ShouldHaltInEachMode : Prop :=
  ∀ (s : State) (a : Word),
    (s.debuggingState = .continue_ → s.shouldHalt a = decide (0 < s.bp.count a)) ∧
    (s.debuggingState = .stepReturn → s.shouldHalt a = decide (0 < s.bp.count a)) ∧
    (s.debuggingState = .stepOver → s.shouldHalt a =
      decide (0 < s.bp.count a ∨ s.callStackSize < s.stepFrame ∧ a ∈ s.cfg.stmtAddrs)) ∧
    (s.debuggingState = .stepInto → s.shouldHalt a =
      decide (0 < s.bp.count a ∨ a ∈ s.cfg.stmtAddrs)) ∧
    (s.debuggingState = .stepInstruction → s.shouldHalt a = true)

/-- R438 (derived by the spec, D49): the call depth stays at or above the snapshot in StepOver and
StepReturn under every Step and every host event, and so StepOver halts exactly where StepReturn
does. -/
def Obligations.StepOverHaltsLikeStepReturn : Prop :=
  (∀ s t : State, s.depthOk → step s = .next t → t.depthOk) ∧
  (∀ (e : HostEvent) (s t : State), s.depthOk → applyHost e s = .done t → t.depthOk) ∧
  ∀ (s : State) (a : Word), s.depthOk → s.debuggingState = .stepOver →
    s.shouldHalt a = { s with debuggingState := .stepReturn }.shouldHalt a

/-- R436 (joining mode selection and resume is D22): SelectMode sets the mode, takes the depth
snapshot for StepOver and StepReturn only, and lets a halted CPU resume; nothing else changes. -/
def Obligations.SelectModeSnapshotsAndResumes : Prop :=
  ∀ (s : State) (m : DebuggingState), ∃ t, applyHost (.selectMode m) s = .done t ∧
    t = { s with
      debuggingState := m
      stepFrame := t.stepFrame
      runState := t.runState } ∧
    (m = .stepOver ∨ m = .stepReturn → t.stepFrame = s.callStackSize) ∧
    (m = .continue_ ∨ m = .stepInto ∨ m = .stepInstruction → t.stepFrame = s.stepFrame) ∧
    (s.runState = .halted → t.runState = .resuming) ∧
    (s.runState ≠ .halted → t.runState = s.runState)

/-! ## Reset and loading -/

/-- R460 to R463, R465, R351, R369, R385, R401, R409 (the values are D22, D23, D24, D28, D35, D39,
D47): what the Reset event leaves of every piece of the state, from any state: the CPU's and the
controller's values, the state of every device, what is kept, and the events, in configuration
order: 32 zero bits of each out-direction ParallelIO and the text of each display. The configuration
is kept and every line is at its line function. (`started` and `freeCount` are the model's, log 14,
log 6.) -/
def Obligations.ResetEventLeavesTheResetValues : Prop :=
  ∀ s : State, ∃ t, applyHost .reset s = .done t ∧ ResetLeaves s t ∧ SameConfiguration s t ∧
    LinesAgree t.irq t.bus

/-- R466 (D25, D44): an image with a segment that no RAM region contains fails as a whole, whichever
segment it is and whatever the others are; an image whose segments all fit leaves the state that the
Reset event leaves, with `pc` at the entry point, the bytes of each segment, the supplied ones and
then zeros, where no later segment covers them, and every other byte as before. That the event also
sets the statement addresses is the model's choice (log 15). -/
def Obligations.LoadImageIsAllOrNothing : Prop :=
  ∀ (s : State) (segments : List Segment) (entry : Word) (stmts : List Word),
    s.configOk = true → s.mem.wf = true → (∀ g ∈ segments, g.bytes.length ≤ g.memlen) →
    ((∃ g ∈ segments, ¬ g.InRam s.bus) → applyHost (.loadImage segments entry stmts) s = .failed) ∧
    ((∀ g ∈ segments, g.InRam s.bus) →
      ∃ u t, applyHost .reset s = .done u ∧ ResetLeaves s u ∧
        applyHost (.loadImage segments entry stmts) s = .done t ∧
        t = { u with pc := entry, cfg := { s.cfg with stmtAddrs := stmts }, mem := t.mem } ∧
        t.mem.wf = true ∧
        (∀ (first : List Segment) (g : Segment) (later : List Segment) (k : Nat),
          segments = first ++ g :: later → k < g.memlen →
          (∀ g' ∈ later, ¬ g'.Covers (g.addr + BitVec.ofNat 32 k)) →
          t.mem.read (g.addr + BitVec.ofNat 32 k) =
            if h : k < g.bytes.length then g.bytes[k] else 0#8) ∧
        ∀ a : Word, (∀ g ∈ segments, ¬ g.Covers a) → t.mem.read a = s.mem.read a)

/-- R20, R24, R31 to R36, R464 (D22, D23; the configuration that it carries is the model's example, log
2): `State.reset` is the power-on state of its configuration, and there every general and control
register reads 0, the CPU runs, and every invariant below holds. -/
def Obligations.ResetStateMeetsTheInvariants : Prop :=
  State.reset = State.powerOn exampleConfig exampleBus [] ∧
    (∀ r, State.reset.getReg r = 0#32) ∧ (∀ n, State.reset.getCtl n = 0#32) ∧
    State.reset.pc = State.reset.cfg.resetAddr ∧ State.reset.runState = .run ∧
    State.reset.fatal = none ∧ State.reset.clock = 0 ∧ State.reset.configOk = true ∧
    State.reset.dataOk = true ∧ LinesAgree State.reset.irq State.reset.bus ∧ State.reset.depthOk

/-! ## Invariants -/

/-- Every Step keeps the data in order: memory and the breakpoint counts in canonical form, register 0
holding 0 (R21), the cell of ipending unused (R28), every Timer with RUN equal to its counting flag
and counting while it is always running (R361), every display's cursor inside its text (R41). -/
def Obligations.StepKeepsTheDataInvariant : Prop :=
  ∀ s t : State, s.dataOk = true → step s = .next t → t.dataOk = true

/-- R60: every Step leaves the configuration as it is: the parameters, and the place, span, line,
kind and parameters of every region; so it stays well formed. -/
def Obligations.StepKeepsTheConfiguration : Prop :=
  ∀ s t : State, step s = .next t → SameConfiguration s t ∧ t.configOk = true

/-- R352 (the line functions are D28, D32, D33): every Step keeps the line of every device at the
level of its line function. -/
def Obligations.StepKeepsLinesAtTheirLevel : Prop :=
  ∀ s t : State, LinesAgree s.irq s.bus → step s = .next t → LinesAgree t.irq t.bus

/-- Every host event keeps the data in order and the configuration well formed (00_scope.md R10,
R12). -/
def Obligations.HostEventsKeepTheInvariants : Prop :=
  ∀ (e : HostEvent) (s t : State), s.dataOk = true → s.configOk = true →
    applyHost e s = .done t → t.dataOk = true ∧ t.configOk = true

end
end

