-- ==== Sys2Proof/Laws/State.lean ====
section
/-! SUPPORT. One lemma per field per update of the state, so that no later proof unfolds a record
update, and what the register accessors read after each update. -/

namespace Sys2Proof.Machine

variable (s : State)

/-! ## A register write -/

@[simp] theorem setReg_cfg (r : Reg) (v : Word) : (s.setReg r v).cfg = s.cfg := rfl
@[simp] theorem setReg_bus (r : Reg) (v : Word) : (s.setReg r v).bus = s.bus := rfl
@[simp] theorem setReg_regs (r : Reg) (v : Word) :
    (s.setReg r v).regs = if r = 0 then s.regs else s.regs.set r v := rfl
@[simp] theorem setReg_pc (r : Reg) (v : Word) : (s.setReg r v).pc = s.pc := rfl
@[simp] theorem setReg_ctl (r : Reg) (v : Word) : (s.setReg r v).ctl = s.ctl := rfl
@[simp] theorem setReg_irq (r : Reg) (v : Word) : (s.setReg r v).irq = s.irq := rfl
@[simp] theorem setReg_runState (r : Reg) (v : Word) : (s.setReg r v).runState = s.runState := rfl
@[simp] theorem setReg_fatal (r : Reg) (v : Word) : (s.setReg r v).fatal = s.fatal := rfl
@[simp] theorem setReg_clock (r : Reg) (v : Word) : (s.setReg r v).clock = s.clock := rfl
@[simp] theorem setReg_debuggingState (r : Reg) (v : Word) :
    (s.setReg r v).debuggingState = s.debuggingState := rfl
@[simp] theorem setReg_callStackSize (r : Reg) (v : Word) :
    (s.setReg r v).callStackSize = s.callStackSize := rfl
@[simp] theorem setReg_stepFrame (r : Reg) (v : Word) :
    (s.setReg r v).stepFrame = s.stepFrame := rfl
@[simp] theorem setReg_bp (r : Reg) (v : Word) : (s.setReg r v).bp = s.bp := rfl
@[simp] theorem setReg_mem (r : Reg) (v : Word) : (s.setReg r v).mem = s.mem := rfl
@[simp] theorem setReg_out (r : Reg) (v : Word) : (s.setReg r v).out = s.out := rfl
@[simp] theorem setReg_freeCount (r : Reg) (v : Word) :
    (s.setReg r v).freeCount = s.freeCount := rfl
@[simp] theorem setReg_started (r : Reg) (v : Word) : (s.setReg r v).started = s.started := rfl

/-! ## A write of the program counter -/

@[simp] theorem setPc_cfg (v : Word) : (s.setPc v).cfg = s.cfg := rfl
@[simp] theorem setPc_bus (v : Word) : (s.setPc v).bus = s.bus := rfl
@[simp] theorem setPc_regs (v : Word) : (s.setPc v).regs = s.regs := rfl
@[simp] theorem setPc_pc (v : Word) : (s.setPc v).pc = v := rfl
@[simp] theorem setPc_ctl (v : Word) : (s.setPc v).ctl = s.ctl := rfl
@[simp] theorem setPc_irq (v : Word) : (s.setPc v).irq = s.irq := rfl
@[simp] theorem setPc_runState (v : Word) : (s.setPc v).runState = s.runState := rfl
@[simp] theorem setPc_fatal (v : Word) : (s.setPc v).fatal = s.fatal := rfl
@[simp] theorem setPc_clock (v : Word) : (s.setPc v).clock = s.clock := rfl
@[simp] theorem setPc_debuggingState (v : Word) :
    (s.setPc v).debuggingState = s.debuggingState := rfl
@[simp] theorem setPc_callStackSize (v : Word) : (s.setPc v).callStackSize = s.callStackSize := rfl
@[simp] theorem setPc_stepFrame (v : Word) : (s.setPc v).stepFrame = s.stepFrame := rfl
@[simp] theorem setPc_bp (v : Word) : (s.setPc v).bp = s.bp := rfl
@[simp] theorem setPc_mem (v : Word) : (s.setPc v).mem = s.mem := rfl
@[simp] theorem setPc_out (v : Word) : (s.setPc v).out = s.out := rfl
@[simp] theorem setPc_freeCount (v : Word) : (s.setPc v).freeCount = s.freeCount := rfl
@[simp] theorem setPc_started (v : Word) : (s.setPc v).started = s.started := rfl

/-! ## A control-register write -/

@[simp] theorem setCtl_cfg (n : CtlReg) (v : Word) : (s.setCtl n v).cfg = s.cfg := rfl
@[simp] theorem setCtl_bus (n : CtlReg) (v : Word) : (s.setCtl n v).bus = s.bus := rfl
@[simp] theorem setCtl_regs (n : CtlReg) (v : Word) : (s.setCtl n v).regs = s.regs := rfl
@[simp] theorem setCtl_pc (n : CtlReg) (v : Word) : (s.setCtl n v).pc = s.pc := rfl
@[simp] theorem setCtl_ctl (n : CtlReg) (v : Word) :
    (s.setCtl n v).ctl = if n = 4 then s.ctl else s.ctl.set n v := rfl
@[simp] theorem setCtl_irq (n : CtlReg) (v : Word) : (s.setCtl n v).irq = s.irq := rfl
@[simp] theorem setCtl_runState (n : CtlReg) (v : Word) :
    (s.setCtl n v).runState = s.runState := rfl
@[simp] theorem setCtl_fatal (n : CtlReg) (v : Word) : (s.setCtl n v).fatal = s.fatal := rfl
@[simp] theorem setCtl_clock (n : CtlReg) (v : Word) : (s.setCtl n v).clock = s.clock := rfl
@[simp] theorem setCtl_debuggingState (n : CtlReg) (v : Word) :
    (s.setCtl n v).debuggingState = s.debuggingState := rfl
@[simp] theorem setCtl_callStackSize (n : CtlReg) (v : Word) :
    (s.setCtl n v).callStackSize = s.callStackSize := rfl
@[simp] theorem setCtl_stepFrame (n : CtlReg) (v : Word) :
    (s.setCtl n v).stepFrame = s.stepFrame := rfl
@[simp] theorem setCtl_bp (n : CtlReg) (v : Word) : (s.setCtl n v).bp = s.bp := rfl
@[simp] theorem setCtl_mem (n : CtlReg) (v : Word) : (s.setCtl n v).mem = s.mem := rfl
@[simp] theorem setCtl_out (n : CtlReg) (v : Word) : (s.setCtl n v).out = s.out := rfl
@[simp] theorem setCtl_freeCount (n : CtlReg) (v : Word) :
    (s.setCtl n v).freeCount = s.freeCount := rfl
@[simp] theorem setCtl_started (n : CtlReg) (v : Word) : (s.setCtl n v).started = s.started := rfl

/-! ## Output events -/

@[simp] theorem emit_cfg (es : List Event) : (s.emit es).cfg = s.cfg := rfl
@[simp] theorem emit_bus (es : List Event) : (s.emit es).bus = s.bus := rfl
@[simp] theorem emit_regs (es : List Event) : (s.emit es).regs = s.regs := rfl
@[simp] theorem emit_pc (es : List Event) : (s.emit es).pc = s.pc := rfl
@[simp] theorem emit_ctl (es : List Event) : (s.emit es).ctl = s.ctl := rfl
@[simp] theorem emit_irq (es : List Event) : (s.emit es).irq = s.irq := rfl
@[simp] theorem emit_runState (es : List Event) : (s.emit es).runState = s.runState := rfl
@[simp] theorem emit_fatal (es : List Event) : (s.emit es).fatal = s.fatal := rfl
@[simp] theorem emit_clock (es : List Event) : (s.emit es).clock = s.clock := rfl
@[simp] theorem emit_debuggingState (es : List Event) :
    (s.emit es).debuggingState = s.debuggingState := rfl
@[simp] theorem emit_callStackSize (es : List Event) :
    (s.emit es).callStackSize = s.callStackSize := rfl
@[simp] theorem emit_stepFrame (es : List Event) : (s.emit es).stepFrame = s.stepFrame := rfl
@[simp] theorem emit_bp (es : List Event) : (s.emit es).bp = s.bp := rfl
@[simp] theorem emit_mem (es : List Event) : (s.emit es).mem = s.mem := rfl
@[simp] theorem emit_out (es : List Event) : (s.emit es).out = s.out ++ es := rfl
@[simp] theorem emit_freeCount (es : List Event) : (s.emit es).freeCount = s.freeCount := rfl
@[simp] theorem emit_started (es : List Event) : (s.emit es).started = s.started := rfl

/-! ## A fatal error -/

@[simp] theorem raiseFatal_cfg (e : FatalError) : (s.raiseFatal e).cfg = s.cfg := rfl
@[simp] theorem raiseFatal_bus (e : FatalError) : (s.raiseFatal e).bus = s.bus := rfl
@[simp] theorem raiseFatal_regs (e : FatalError) : (s.raiseFatal e).regs = s.regs := rfl
@[simp] theorem raiseFatal_pc (e : FatalError) : (s.raiseFatal e).pc = s.pc := rfl
@[simp] theorem raiseFatal_ctl (e : FatalError) : (s.raiseFatal e).ctl = s.ctl := rfl
@[simp] theorem raiseFatal_irq (e : FatalError) : (s.raiseFatal e).irq = s.irq := rfl
@[simp] theorem raiseFatal_runState (e : FatalError) : (s.raiseFatal e).runState = s.runState := rfl
@[simp] theorem raiseFatal_fatal (e : FatalError) : (s.raiseFatal e).fatal = some e := rfl
@[simp] theorem raiseFatal_clock (e : FatalError) : (s.raiseFatal e).clock = s.clock := rfl
@[simp] theorem raiseFatal_debuggingState (e : FatalError) :
    (s.raiseFatal e).debuggingState = s.debuggingState := rfl
@[simp] theorem raiseFatal_callStackSize (e : FatalError) :
    (s.raiseFatal e).callStackSize = s.callStackSize := rfl
@[simp] theorem raiseFatal_stepFrame (e : FatalError) :
    (s.raiseFatal e).stepFrame = s.stepFrame := rfl
@[simp] theorem raiseFatal_bp (e : FatalError) : (s.raiseFatal e).bp = s.bp := rfl
@[simp] theorem raiseFatal_mem (e : FatalError) : (s.raiseFatal e).mem = s.mem := rfl
@[simp] theorem raiseFatal_out (e : FatalError) :
    (s.raiseFatal e).out = s.out ++ [.fatalNotify e] := rfl
@[simp] theorem raiseFatal_freeCount (e : FatalError) :
    (s.raiseFatal e).freeCount = s.freeCount := rfl
@[simp] theorem raiseFatal_started (e : FatalError) : (s.raiseFatal e).started = s.started := rfl

/-! ## The exception issue -/

@[simp] theorem takeException_cfg (p : Word) : (s.takeException p).cfg = s.cfg := rfl
@[simp] theorem takeException_bus (p : Word) : (s.takeException p).bus = s.bus := rfl
@[simp] theorem takeException_regs (p : Word) :
    (s.takeException p).regs = s.regs.set eaReg (p + 4#32) := rfl
@[simp] theorem takeException_pc (p : Word) : (s.takeException p).pc = s.cfg.excAddr := rfl
@[simp] theorem takeException_ctl (p : Word) :
    (s.takeException p).ctl = (s.ctl.set 1 s.ctl[0]).set 0 (s.ctl[0] &&& 0xFFFFFFFE#32) := rfl
@[simp] theorem takeException_irq (p : Word) : (s.takeException p).irq = s.irq := rfl
@[simp] theorem takeException_runState (p : Word) : (s.takeException p).runState = s.runState := rfl
@[simp] theorem takeException_fatal (p : Word) : (s.takeException p).fatal = s.fatal := rfl
@[simp] theorem takeException_clock (p : Word) : (s.takeException p).clock = s.clock := rfl
@[simp] theorem takeException_debuggingState (p : Word) :
    (s.takeException p).debuggingState = s.debuggingState := rfl
@[simp] theorem takeException_callStackSize (p : Word) :
    (s.takeException p).callStackSize = s.callStackSize := rfl
@[simp] theorem takeException_stepFrame (p : Word) :
    (s.takeException p).stepFrame = s.stepFrame := rfl
@[simp] theorem takeException_bp (p : Word) : (s.takeException p).bp = s.bp := rfl
@[simp] theorem takeException_mem (p : Word) : (s.takeException p).mem = s.mem := rfl
@[simp] theorem takeException_out (p : Word) : (s.takeException p).out = s.out := rfl
@[simp] theorem takeException_freeCount (p : Word) :
    (s.takeException p).freeCount = s.freeCount := rfl
@[simp] theorem takeException_started (p : Word) : (s.takeException p).started = s.started := rfl

/-! ## The return from an exception -/

@[simp] theorem returnFromException_cfg : (s.returnFromException).cfg = s.cfg := rfl
@[simp] theorem returnFromException_bus : (s.returnFromException).bus = s.bus := rfl
@[simp] theorem returnFromException_regs : (s.returnFromException).regs = s.regs := rfl
@[simp] theorem returnFromException_pc : (s.returnFromException).pc = s.getReg eaReg := rfl
@[simp] theorem returnFromException_ctl : (s.returnFromException).ctl = s.ctl.set 0 s.ctl[1] := rfl
@[simp] theorem returnFromException_irq : (s.returnFromException).irq = s.irq := rfl
@[simp] theorem returnFromException_runState : (s.returnFromException).runState = s.runState := rfl
@[simp] theorem returnFromException_fatal : (s.returnFromException).fatal = s.fatal := rfl
@[simp] theorem returnFromException_clock : (s.returnFromException).clock = s.clock := rfl
@[simp] theorem returnFromException_debuggingState :
    (s.returnFromException).debuggingState = s.debuggingState := rfl
@[simp] theorem returnFromException_callStackSize :
    (s.returnFromException).callStackSize = s.callStackSize := rfl
@[simp] theorem returnFromException_stepFrame :
    (s.returnFromException).stepFrame = s.stepFrame := rfl
@[simp] theorem returnFromException_bp : (s.returnFromException).bp = s.bp := rfl
@[simp] theorem returnFromException_mem : (s.returnFromException).mem = s.mem := rfl
@[simp] theorem returnFromException_out : (s.returnFromException).out = s.out := rfl
@[simp] theorem returnFromException_freeCount :
    (s.returnFromException).freeCount = s.freeCount := rfl
@[simp] theorem returnFromException_started : (s.returnFromException).started = s.started := rfl

/-! ## The use of a free value -/

@[simp] theorem useFree_cfg : (s.useFree).cfg = s.cfg := rfl
@[simp] theorem useFree_bus : (s.useFree).bus = s.bus := rfl
@[simp] theorem useFree_regs : (s.useFree).regs = s.regs := rfl
@[simp] theorem useFree_pc : (s.useFree).pc = s.pc := rfl
@[simp] theorem useFree_ctl : (s.useFree).ctl = s.ctl := rfl
@[simp] theorem useFree_irq : (s.useFree).irq = s.irq := rfl
@[simp] theorem useFree_runState : (s.useFree).runState = s.runState := rfl
@[simp] theorem useFree_fatal : (s.useFree).fatal = s.fatal := rfl
@[simp] theorem useFree_clock : (s.useFree).clock = s.clock := rfl
@[simp] theorem useFree_debuggingState : (s.useFree).debuggingState = s.debuggingState := rfl
@[simp] theorem useFree_callStackSize : (s.useFree).callStackSize = s.callStackSize := rfl
@[simp] theorem useFree_stepFrame : (s.useFree).stepFrame = s.stepFrame := rfl
@[simp] theorem useFree_bp : (s.useFree).bp = s.bp := rfl
@[simp] theorem useFree_mem : (s.useFree).mem = s.mem := rfl
@[simp] theorem useFree_out : (s.useFree).out = s.out := rfl
@[simp] theorem useFree_freeCount : (s.useFree).freeCount = s.freeCount + 1 := rfl
@[simp] theorem useFree_started : (s.useFree).started = s.started := rfl

/-! ## A call notification -/

@[simp] theorem notifyCall_cfg : (s.notifyCall).cfg = s.cfg := rfl
@[simp] theorem notifyCall_bus : (s.notifyCall).bus = s.bus := rfl
@[simp] theorem notifyCall_regs : (s.notifyCall).regs = s.regs := rfl
@[simp] theorem notifyCall_pc : (s.notifyCall).pc = s.pc := rfl
@[simp] theorem notifyCall_ctl : (s.notifyCall).ctl = s.ctl := rfl
@[simp] theorem notifyCall_irq : (s.notifyCall).irq = s.irq := rfl
@[simp] theorem notifyCall_runState : (s.notifyCall).runState = s.runState := rfl
@[simp] theorem notifyCall_fatal : (s.notifyCall).fatal = s.fatal := rfl
@[simp] theorem notifyCall_clock : (s.notifyCall).clock = s.clock := rfl
@[simp] theorem notifyCall_debuggingState : (s.notifyCall).debuggingState = s.debuggingState := rfl
@[simp] theorem notifyCall_callStackSize : (s.notifyCall).callStackSize = s.callStackSize + 1 := rfl
@[simp] theorem notifyCall_stepFrame : (s.notifyCall).stepFrame = s.stepFrame := rfl
@[simp] theorem notifyCall_bp : (s.notifyCall).bp = s.bp := rfl
@[simp] theorem notifyCall_mem : (s.notifyCall).mem = s.mem := rfl
@[simp] theorem notifyCall_out : (s.notifyCall).out = s.out := rfl
@[simp] theorem notifyCall_freeCount : (s.notifyCall).freeCount = s.freeCount := rfl
@[simp] theorem notifyCall_started : (s.notifyCall).started = s.started := rfl

/-! ## A return notification -/

@[simp] theorem notifyReturn_cfg : (s.notifyReturn).cfg = s.cfg := rfl
@[simp] theorem notifyReturn_bus : (s.notifyReturn).bus = s.bus := rfl
@[simp] theorem notifyReturn_regs : (s.notifyReturn).regs = s.regs := rfl
@[simp] theorem notifyReturn_pc : (s.notifyReturn).pc = s.pc := rfl
@[simp] theorem notifyReturn_ctl : (s.notifyReturn).ctl = s.ctl := rfl
@[simp] theorem notifyReturn_irq : (s.notifyReturn).irq = s.irq := rfl
@[simp] theorem notifyReturn_runState : (s.notifyReturn).runState = s.runState := rfl
@[simp] theorem notifyReturn_fatal : (s.notifyReturn).fatal = s.fatal := rfl
@[simp] theorem notifyReturn_clock : (s.notifyReturn).clock = s.clock := rfl
@[simp] theorem notifyReturn_debuggingState :
    (s.notifyReturn).debuggingState =
      modeAfterReturn s.debuggingState (s.callStackSize - 1) s.stepFrame := rfl
@[simp] theorem notifyReturn_callStackSize :
    (s.notifyReturn).callStackSize = s.callStackSize - 1 := rfl
@[simp] theorem notifyReturn_stepFrame : (s.notifyReturn).stepFrame = s.stepFrame := rfl
@[simp] theorem notifyReturn_bp : (s.notifyReturn).bp = s.bp := rfl
@[simp] theorem notifyReturn_mem : (s.notifyReturn).mem = s.mem := rfl
@[simp] theorem notifyReturn_out : (s.notifyReturn).out = s.out := rfl
@[simp] theorem notifyReturn_freeCount : (s.notifyReturn).freeCount = s.freeCount := rfl
@[simp] theorem notifyReturn_started : (s.notifyReturn).started = s.started := rfl

/-! ## A halt -/

@[simp] theorem halt_cfg : (s.halt).cfg = s.cfg := rfl
@[simp] theorem halt_bus : (s.halt).bus = s.bus := rfl
@[simp] theorem halt_regs : (s.halt).regs = s.regs := rfl
@[simp] theorem halt_pc : (s.halt).pc = s.pc := rfl
@[simp] theorem halt_ctl : (s.halt).ctl = s.ctl := rfl
@[simp] theorem halt_irq : (s.halt).irq = s.irq := rfl
@[simp] theorem halt_runState : (s.halt).runState = .halted := rfl
@[simp] theorem halt_fatal : (s.halt).fatal = s.fatal := rfl
@[simp] theorem halt_clock : (s.halt).clock = s.clock := rfl
@[simp] theorem halt_debuggingState : (s.halt).debuggingState = s.debuggingState := rfl
@[simp] theorem halt_callStackSize : (s.halt).callStackSize = s.callStackSize := rfl
@[simp] theorem halt_stepFrame : (s.halt).stepFrame = s.stepFrame := rfl
@[simp] theorem halt_bp : (s.halt).bp = s.bp := rfl
@[simp] theorem halt_mem : (s.halt).mem = s.mem := rfl
@[simp] theorem halt_out : (s.halt).out = s.out ++ [.haltNotify s.pc] := rfl
@[simp] theorem halt_freeCount : (s.halt).freeCount = s.freeCount := rfl
@[simp] theorem halt_started : (s.halt).started = s.started := rfl

/-! ## The taking over of what a device call left -/

@[simp] theorem applyDevice_cfg (k : Nat) (q : Region) (d : DeviceResult) :
    (s.applyDevice k q d).cfg = s.cfg := rfl
@[simp] theorem applyDevice_bus (k : Nat) (q : Region) (d : DeviceResult) :
    (s.applyDevice k q d).bus = s.bus.set k { q with dev := d.dev } := rfl
@[simp] theorem applyDevice_regs (k : Nat) (q : Region) (d : DeviceResult) :
    (s.applyDevice k q d).regs = s.regs := rfl
@[simp] theorem applyDevice_pc (k : Nat) (q : Region) (d : DeviceResult) :
    (s.applyDevice k q d).pc = s.pc := rfl
@[simp] theorem applyDevice_ctl (k : Nat) (q : Region) (d : DeviceResult) :
    (s.applyDevice k q d).ctl = s.ctl := rfl
@[simp] theorem applyDevice_irq (k : Nat) (q : Region) (d : DeviceResult) :
    (s.applyDevice k q d).irq = driveLine s.irq q.irq d.level := rfl
@[simp] theorem applyDevice_runState (k : Nat) (q : Region) (d : DeviceResult) :
    (s.applyDevice k q d).runState = s.runState := rfl
@[simp] theorem applyDevice_fatal (k : Nat) (q : Region) (d : DeviceResult) :
    (s.applyDevice k q d).fatal = s.fatal := rfl
@[simp] theorem applyDevice_clock (k : Nat) (q : Region) (d : DeviceResult) :
    (s.applyDevice k q d).clock = s.clock := rfl
@[simp] theorem applyDevice_debuggingState (k : Nat) (q : Region) (d : DeviceResult) :
    (s.applyDevice k q d).debuggingState = s.debuggingState := rfl
@[simp] theorem applyDevice_callStackSize (k : Nat) (q : Region) (d : DeviceResult) :
    (s.applyDevice k q d).callStackSize = s.callStackSize := rfl
@[simp] theorem applyDevice_stepFrame (k : Nat) (q : Region) (d : DeviceResult) :
    (s.applyDevice k q d).stepFrame = s.stepFrame := rfl
@[simp] theorem applyDevice_bp (k : Nat) (q : Region) (d : DeviceResult) :
    (s.applyDevice k q d).bp = s.bp := rfl
@[simp] theorem applyDevice_mem (k : Nat) (q : Region) (d : DeviceResult) :
    (s.applyDevice k q d).mem = s.mem := rfl
@[simp] theorem applyDevice_out (k : Nat) (q : Region) (d : DeviceResult) :
    (s.applyDevice k q d).out = s.out ++ d.events := rfl
@[simp] theorem applyDevice_freeCount (k : Nat) (q : Region) (d : DeviceResult) :
    (s.applyDevice k q d).freeCount = s.freeCount := rfl
@[simp] theorem applyDevice_started (k : Nat) (q : Region) (d : DeviceResult) :
    (s.applyDevice k q d).started = s.started := rfl

/-! ## The start of a tick -/

@[simp] theorem enterTick_cfg : (s.enterTick).cfg = s.cfg := rfl
@[simp] theorem enterTick_bus : (s.enterTick).bus = s.bus := rfl
@[simp] theorem enterTick_regs : (s.enterTick).regs = s.regs := rfl
@[simp] theorem enterTick_pc : (s.enterTick).pc = s.pc := rfl
@[simp] theorem enterTick_ctl : (s.enterTick).ctl = s.ctl := rfl
@[simp] theorem enterTick_irq : (s.enterTick).irq = s.irq := rfl
@[simp] theorem enterTick_runState : (s.enterTick).runState = .run := rfl
@[simp] theorem enterTick_fatal : (s.enterTick).fatal = s.fatal := rfl
@[simp] theorem enterTick_clock : (s.enterTick).clock = s.clock := rfl
@[simp] theorem enterTick_debuggingState : (s.enterTick).debuggingState = s.debuggingState := rfl
@[simp] theorem enterTick_callStackSize : (s.enterTick).callStackSize = s.callStackSize := rfl
@[simp] theorem enterTick_stepFrame : (s.enterTick).stepFrame = s.stepFrame := rfl
@[simp] theorem enterTick_bp : (s.enterTick).bp = s.bp := rfl
@[simp] theorem enterTick_mem : (s.enterTick).mem = s.mem := rfl
@[simp] theorem enterTick_out : (s.enterTick).out = s.out := rfl
@[simp] theorem enterTick_freeCount : (s.enterTick).freeCount = s.freeCount := rfl
@[simp] theorem enterTick_started : (s.enterTick).started = true := rfl

/-! ## The end of a completed Step -/

@[simp] theorem endStep_cfg : (s.endStep).cfg = s.cfg := rfl
@[simp] theorem endStep_bus : (s.endStep).bus = (clockRegions s.irq s.bus).1 := rfl
@[simp] theorem endStep_regs : (s.endStep).regs = s.regs := rfl
@[simp] theorem endStep_pc : (s.endStep).pc = s.pc := rfl
@[simp] theorem endStep_ctl : (s.endStep).ctl = s.ctl := rfl
@[simp] theorem endStep_irq : (s.endStep).irq = (clockRegions s.irq s.bus).2 := rfl
@[simp] theorem endStep_runState : (s.endStep).runState = s.runState := rfl
@[simp] theorem endStep_fatal : (s.endStep).fatal = s.fatal := rfl
@[simp] theorem endStep_clock : (s.endStep).clock = s.clock + 1 := rfl
@[simp] theorem endStep_debuggingState : (s.endStep).debuggingState = s.debuggingState := rfl
@[simp] theorem endStep_callStackSize : (s.endStep).callStackSize = s.callStackSize := rfl
@[simp] theorem endStep_stepFrame : (s.endStep).stepFrame = s.stepFrame := rfl
@[simp] theorem endStep_bp : (s.endStep).bp = s.bp := rfl
@[simp] theorem endStep_mem : (s.endStep).mem = s.mem := rfl
@[simp] theorem endStep_out : (s.endStep).out = s.out := rfl
@[simp] theorem endStep_freeCount : (s.endStep).freeCount = s.freeCount := rfl
@[simp] theorem endStep_started : (s.endStep).started = s.started := rfl

/-! ## What the accessors read -/

@[simp] theorem setReg_getCtl (r : Reg) (v : Word) (n' : CtlReg) :
    (s.setReg r v).getCtl n' = s.getCtl n' := rfl
@[simp] theorem setPc_getReg (v : Word) (r' : Reg) : (s.setPc v).getReg r' = s.getReg r' := rfl
@[simp] theorem setPc_getCtl (v : Word) (n' : CtlReg) : (s.setPc v).getCtl n' = s.getCtl n' := rfl
@[simp] theorem setCtl_getReg (n : CtlReg) (v : Word) (r' : Reg) :
    (s.setCtl n v).getReg r' = s.getReg r' := rfl
@[simp] theorem emit_getReg (es : List Event) (r' : Reg) :
    (s.emit es).getReg r' = s.getReg r' := rfl
@[simp] theorem emit_getCtl (es : List Event) (n' : CtlReg) :
    (s.emit es).getCtl n' = s.getCtl n' := rfl
@[simp] theorem raiseFatal_getReg (e : FatalError) (r' : Reg) :
    (s.raiseFatal e).getReg r' = s.getReg r' := rfl
@[simp] theorem raiseFatal_getCtl (e : FatalError) (n' : CtlReg) :
    (s.raiseFatal e).getCtl n' = s.getCtl n' := rfl
@[simp] theorem returnFromException_getReg (r' : Reg) :
    (s.returnFromException).getReg r' = s.getReg r' := rfl
@[simp] theorem useFree_getReg (r' : Reg) : (s.useFree).getReg r' = s.getReg r' := rfl
@[simp] theorem useFree_getCtl (n' : CtlReg) : (s.useFree).getCtl n' = s.getCtl n' := rfl
@[simp] theorem notifyCall_getReg (r' : Reg) : (s.notifyCall).getReg r' = s.getReg r' := rfl
@[simp] theorem notifyCall_getCtl (n' : CtlReg) : (s.notifyCall).getCtl n' = s.getCtl n' := rfl
@[simp] theorem notifyReturn_getReg (r' : Reg) : (s.notifyReturn).getReg r' = s.getReg r' := rfl
@[simp] theorem notifyReturn_getCtl (n' : CtlReg) : (s.notifyReturn).getCtl n' = s.getCtl n' := rfl
@[simp] theorem halt_getReg (r' : Reg) : (s.halt).getReg r' = s.getReg r' := rfl
@[simp] theorem halt_getCtl (n' : CtlReg) : (s.halt).getCtl n' = s.getCtl n' := rfl
@[simp] theorem applyDevice_getReg (k : Nat) (q : Region) (d : DeviceResult) (r' : Reg) :
    (s.applyDevice k q d).getReg r' = s.getReg r' := rfl
@[simp] theorem enterTick_getReg (r' : Reg) : (s.enterTick).getReg r' = s.getReg r' := rfl
@[simp] theorem enterTick_getCtl (n' : CtlReg) : (s.enterTick).getCtl n' = s.getCtl n' := rfl
@[simp] theorem endStep_getReg (r' : Reg) : (s.endStep).getReg r' = s.getReg r' := rfl

/-! ## Reading a register back -/

/-- Register 0 reads 0 (10_state.md R21). -/
@[simp] theorem getReg_zero : s.getReg 0 = 0#32 := rfl

theorem getReg_of_ne (r : Reg) (h : r ≠ 0) : s.getReg r = s.regs[r] := if_neg h

/-- A write reads back, but for register 0. -/
@[simp] theorem setReg_getReg_same (r : Reg) (v : Word) :
    (s.setReg r v).getReg r = if r = 0 then 0#32 else v := by
  unfold State.getReg State.setReg
  by_cases h : r = 0 <;> simp [h]

/-- A write leaves every other register alone. -/
theorem setReg_getReg_ne (r q : Reg) (v : Word) (h : q ≠ r) :
    (s.setReg r v).getReg q = s.getReg q := by
  unfold State.getReg State.setReg
  by_cases hr : r = 0
  · simp [hr]
  · have : (r : Nat) ≠ q := fun e => h (Fin.ext e.symm)
    simp [hr, Vector.getElem_set_ne, this]

/-- A write to register 0 changes nothing (10_state.md R21). -/
@[simp] theorem setReg_zero (v : Word) : s.setReg 0 v = s := rfl

/-- Control register 4 is the masked pending word (10_state.md R28). -/
theorem getCtl_four : s.getCtl 4 = s.irq &&& s.getCtl 3 := rfl

theorem getCtl_of_ne (n : CtlReg) (h : n ≠ 4) : s.getCtl n = s.ctl[n] := if_neg h

/-- A control-register write reads back, but for number 4. -/
theorem setCtl_getCtl_same (n : CtlReg) (v : Word) (h : n ≠ 4) : (s.setCtl n v).getCtl n = v := by
  simp [State.getCtl, State.setCtl, h]

/-- A control-register write leaves every other stored control register alone. -/
theorem setCtl_getCtl_ne (n m : CtlReg) (v : Word) (h : m ≠ n) (h4 : m ≠ 4) :
    (s.setCtl n v).getCtl m = s.getCtl m := by
  unfold State.getCtl State.setCtl
  by_cases hn : n = 4
  · simp [hn]
  · have : (n : Nat) ≠ m := fun e => h (Fin.ext e.symm)
    simp [h4, hn, Vector.getElem_set_ne, this]

/-- A write of control register 4 changes nothing (10_state.md R28). -/
@[simp] theorem setCtl_four (v : Word) : s.setCtl 4 v = s := rfl

/-! ## The trace record of an access -/

/-- The trace leaves everything but the output events alone (20_memory.md R66). -/
theorem traceAccess_eq (kind : AccessKind) (a : Word) (io : Bool) :
    s.traceAccess kind a io =
      s.emit (if s.cfg.traceEnabled && !io then [.trace kind a] else []) := by
  unfold State.traceAccess State.emit
  cases s.cfg.traceEnabled && !io <;> simp

@[simp] theorem traceAccess_cfg (kind : AccessKind) (a : Word) (io : Bool) :
    (s.traceAccess kind a io).cfg = s.cfg := by rw [traceAccess_eq]; rfl
@[simp] theorem traceAccess_bus (kind : AccessKind) (a : Word) (io : Bool) :
    (s.traceAccess kind a io).bus = s.bus := by rw [traceAccess_eq]; rfl
@[simp] theorem traceAccess_regs (kind : AccessKind) (a : Word) (io : Bool) :
    (s.traceAccess kind a io).regs = s.regs := by rw [traceAccess_eq]; rfl
@[simp] theorem traceAccess_pc (kind : AccessKind) (a : Word) (io : Bool) :
    (s.traceAccess kind a io).pc = s.pc := by rw [traceAccess_eq]; rfl
@[simp] theorem traceAccess_ctl (kind : AccessKind) (a : Word) (io : Bool) :
    (s.traceAccess kind a io).ctl = s.ctl := by rw [traceAccess_eq]; rfl
@[simp] theorem traceAccess_irq (kind : AccessKind) (a : Word) (io : Bool) :
    (s.traceAccess kind a io).irq = s.irq := by rw [traceAccess_eq]; rfl
@[simp] theorem traceAccess_runState (kind : AccessKind) (a : Word) (io : Bool) :
    (s.traceAccess kind a io).runState = s.runState := by rw [traceAccess_eq]; rfl
@[simp] theorem traceAccess_fatal (kind : AccessKind) (a : Word) (io : Bool) :
    (s.traceAccess kind a io).fatal = s.fatal := by rw [traceAccess_eq]; rfl
@[simp] theorem traceAccess_clock (kind : AccessKind) (a : Word) (io : Bool) :
    (s.traceAccess kind a io).clock = s.clock := by rw [traceAccess_eq]; rfl
@[simp] theorem traceAccess_debuggingState (kind : AccessKind) (a : Word) (io : Bool) :
    (s.traceAccess kind a io).debuggingState = s.debuggingState := by rw [traceAccess_eq]; rfl
@[simp] theorem traceAccess_callStackSize (kind : AccessKind) (a : Word) (io : Bool) :
    (s.traceAccess kind a io).callStackSize = s.callStackSize := by rw [traceAccess_eq]; rfl
@[simp] theorem traceAccess_stepFrame (kind : AccessKind) (a : Word) (io : Bool) :
    (s.traceAccess kind a io).stepFrame = s.stepFrame := by rw [traceAccess_eq]; rfl
@[simp] theorem traceAccess_bp (kind : AccessKind) (a : Word) (io : Bool) :
    (s.traceAccess kind a io).bp = s.bp := by rw [traceAccess_eq]; rfl
@[simp] theorem traceAccess_mem (kind : AccessKind) (a : Word) (io : Bool) :
    (s.traceAccess kind a io).mem = s.mem := by rw [traceAccess_eq]; rfl
@[simp] theorem traceAccess_out (kind : AccessKind) (a : Word) (io : Bool) :
    (s.traceAccess kind a io).out =
      s.out ++ (if s.cfg.traceEnabled && !io then [.trace kind a] else []) := by
  rw [traceAccess_eq]; rfl
@[simp] theorem traceAccess_freeCount (kind : AccessKind) (a : Word) (io : Bool) :
    (s.traceAccess kind a io).freeCount = s.freeCount := by rw [traceAccess_eq]; rfl
@[simp] theorem traceAccess_started (kind : AccessKind) (a : Word) (io : Bool) :
    (s.traceAccess kind a io).started = s.started := by rw [traceAccess_eq]; rfl
@[simp] theorem traceAccess_getReg (kind : AccessKind) (a : Word) (io : Bool) (r : Reg) :
    (s.traceAccess kind a io).getReg r = s.getReg r := by rw [traceAccess_eq]; rfl
@[simp] theorem traceAccess_getCtl (kind : AccessKind) (a : Word) (io : Bool) (n : CtlReg) :
    (s.traceAccess kind a io).getCtl n = s.getCtl n := by rw [traceAccess_eq]; rfl

end Sys2Proof.Machine
end

