-- ==== Sys2Proof/Laws/Bus.lean ====
section
/-! SUPPORT. What the bus and the access primitives can do: resolution, and each outcome of a data
read and of a data write (20_memory.md R61 to R76). -/

namespace Sys2Proof.Machine

/-! ## Resolution (R61) -/

/-- A resolved address is in the region that stands at the index found. -/
theorem resolveFrom_some {a : Word} : ∀ {l : List Region} {k j : Nat} {r : Region},
    resolveFrom k a l = some (j, r) → k ≤ j ∧ l[j - k]? = some r ∧ r.contains a = true
  | [], _, _, _, h => by simp [resolveFrom] at h
  | q :: rest, k, j, r, h => by
    unfold resolveFrom at h
    split at h
    · next hc =>
      obtain ⟨rfl, rfl⟩ := Prod.mk.inj (Option.some.inj h)
      simp [hc]
    · obtain ⟨h1, h2, h3⟩ := resolveFrom_some h
      refine ⟨by omega, ?_, h3⟩
      rw [show j - k = (j - (k + 1)) + 1 by omega]
      simpa using h2

/-- What resolution says of the bus. -/
theorem resolve_some {s : State} {a : Word} {k : Nat} {r : Region}
    (h : s.resolve a = some (k, r)) : s.bus[k]? = some r ∧ r.contains a = true := by
  obtain ⟨_, h2, h3⟩ := resolveFrom_some h
  exact ⟨by simpa using h2, h3⟩

/-- Resolution reads the regions only. -/
theorem resolve_congr {s t : State} (h : t.bus = s.bus) (a : Word) : t.resolve a = s.resolve a := by
  unfold State.resolve; rw [h]

@[simp] theorem traceAccess_resolve (s : State) (kind : AccessKind) (a b : Word) (io : Bool) :
    (s.traceAccess kind a io).resolve b = s.resolve b :=
  resolve_congr (traceAccess_bus s kind a io) b

/-- An address is in RAM when its region is RAM. -/
theorem isRam_iff {s : State} {a : Word} :
    s.isRam a = true ↔ ∃ k r, s.resolve a = some (k, r) ∧ r.dev = .ram := by
  unfold State.isRam
  cases s.resolve a with
  | none => simp
  | some x =>
    obtain ⟨k, r⟩ := x
    simp [Prod.ext_iff]

theorem addressValid_of_resolve {s : State} {a : Word} {x : Nat × Region}
    (h : s.resolve a = some x) : s.addressValid a = true := by simp [State.addressValid, h]

theorem addressValid_of_isRam {s : State} {a : Word} (h : s.isRam a = true) :
    s.addressValid a = true := by
  obtain ⟨k, r, h, _⟩ := isRam_iff.1 h
  exact addressValid_of_resolve h

theorem not_addressValid {s : State} {a : Word} (h : s.addressValid a = false) :
    s.resolve a = none := by simpa [State.addressValid] using h

/-- Two addresses in the same regions resolve alike. -/
theorem resolveFrom_congr {a b : Word} : ∀ {l : List Region} {k : Nat},
    (∀ r ∈ l, r.contains b = r.contains a) → resolveFrom k b l = resolveFrom k a l
  | [], _, _ => rfl
  | q :: rest, k, h => by
    unfold resolveFrom
    rw [h q (by simp), resolveFrom_congr fun r hr => h r (by simp [hr])]

/-- In a well-formed configuration every region is placed on word boundaries (R63 (b)). -/
theorem placed_of_configOk {s : State} (h : s.configOk = true) {r : Region} (hr : r ∈ s.bus) :
    r.base.toNat % 4 = 0 ∧ 0 < r.span ∧ r.span % 4 = 0 ∧ r.base.toNat + r.span ≤ 2 ^ 32 := by
  simp only [State.configOk, busWellFormed, Bool.and_eq_true, List.all_eq_true] at h
  have := h.1.1 r hr
  simp only [Region.wellFormed, Region.placed, Bool.and_eq_true, decide_eq_true_eq] at this
  obtain ⟨⟨⟨⟨⟨⟨h1, h2⟩, h3⟩, h4⟩, -⟩, -⟩, -⟩ := this
  exact ⟨h1, h2, h3, h4⟩

/-- The four bytes of an aligned word are in the same region (R63 (b)). -/
theorem resolve_word {s : State} (h : s.configOk = true) {a : Word} (ha : a.toNat % 4 = 0) {k : Nat}
    (hk : k < 4) : s.resolve (a + BitVec.ofNat 32 k) = s.resolve a := by
  refine resolveFrom_congr fun r hr => ?_
  obtain ⟨h1, h2, h3, h4⟩ := placed_of_configOk h hr
  have : (a + BitVec.ofNat 32 k).toNat = a.toNat + k := by
    have := a.isLt
    rw [BitVec.toNat_add, BitVec.toNat_ofNat]
    omega
  rw [Bool.eq_iff_iff]
  simp only [Region.contains, this, Bool.and_eq_true, decide_eq_true_eq]
  unfold Region.limit
  omega

/-! ## Alignment (R69) -/

theorem extract_two_eq_zero {a : Word} : a.extractLsb' 0 2 = 0#2 ↔ a.toNat % 4 = 0 := by
  rw [← BitVec.toNat_inj]
  simp [BitVec.extractLsb'_toNat]

/-- The alignment check is divisibility by the number of bytes. -/
theorem aligned_iff {a : Word} {size : Size} :
    size.aligned a = true ↔ a.toNat % size.bytes = 0 := by
  cases size
  · simp [Size.aligned, Size.bytes, Nat.mod_one]
  · simp only [Size.aligned, Size.bytes, beq_iff_eq]
    rw [← BitVec.toNat_inj]
    simp [BitVec.extractLsb'_toNat]
  · simp only [Size.aligned, Size.bytes, beq_iff_eq, extract_two_eq_zero]

theorem targetAligned_iff {t : Word} : targetAligned t = true ↔ t.toNat % 4 = 0 := by
  simp [targetAligned, extract_two_eq_zero]

/-! ## Data reads (R70) -/

theorem memRead_misaligned {s : State} {a : Word} {size : Size} (io : Bool)
    (h : a.toNat % size.bytes ≠ 0) :
    s.memRead a size io =
      .error (.next (s.raiseFatal ⟨.misalignedAccess, a, size, .load, none⟩)) := by
  have : size.aligned a = false := by rw [← Bool.not_eq_true, aligned_iff]; exact h
  simp [State.memRead, this]

theorem memRead_unmapped {s : State} {a : Word} {size : Size} (io : Bool)
    (h : a.toNat % size.bytes = 0) (hv : s.addressValid a = false) :
    s.memRead a size io =
      .error (.next (s.raiseFatal ⟨.invalidAddress, a, size, .load, none⟩)) := by
  simp [State.memRead, aligned_iff.2 h, hv]

/-- A read of RAM gives its bytes and leaves only the trace record. -/
theorem memRead_ram {s : State} {a : Word} {size : Size} (io : Bool) (h : RamAccess s a size) :
    s.memRead a size io = .ok (s.mem.readSize a size, s.emit (accessEvents s .load a io)) := by
  obtain ⟨h1, h2⟩ := h
  obtain ⟨k, r, hr, hd⟩ := isRam_iff.1 h1
  simp only [State.memRead, aligned_iff.2 h2, addressValid_of_isRam h1, State.busRead,
    Bool.not_true, Bool.false_eq_true, ↓reduceIte, traceAccess_resolve, hr, State.regionRead, hd,
    traceAccess_mem]
  rw [traceAccess_eq]
  rfl

/-- A read that reaches another device: the register's value and what the device leaves, for a word
at a word offset; else the refusal (R76). -/
theorem memRead_device {s : State} {a : Word} {size : Size} {k : Nat} {r : Region} (io : Bool)
    (h : a.toNat % size.bytes = 0) (hr : s.resolve a = some (k, r)) (hd : r.dev ≠ .ram) :
    s.memRead a size io =
      if deviceAccess (r.offset a) size then
        .ok ((r.dev.readReg (r.offset a)).1,
          (s.emit (accessEvents s .load a io)).applyDevice k r (r.dev.readReg (r.offset a)).2)
      else .error (.refused .deviceNarrowAccess) := by
  simp only [State.memRead, aligned_iff.2 h, addressValid_of_resolve hr, State.busRead,
    Bool.not_true, Bool.false_eq_true, ↓reduceIte, traceAccess_resolve, hr, State.regionRead, hd]
  rw [traceAccess_eq]
  cases deviceAccess (r.offset a) size <;> rfl

/-! ## Data writes (R71) -/

theorem memWrite_misaligned {s : State} {a : Word} {size : Size} (v : Word) (io : Bool)
    (h : a.toNat % size.bytes ≠ 0) :
    s.memWrite a size v io =
      .next (s.raiseFatal ⟨.misalignedAccess, a, size, .store, some (size.truncate v)⟩) := by
  have : size.aligned a = false := by rw [← Bool.not_eq_true, aligned_iff]; exact h
  simp [State.memWrite, this]

theorem memWrite_unmapped {s : State} {a : Word} {size : Size} (v : Word) (io : Bool)
    (h : a.toNat % size.bytes = 0) (hv : s.addressValid a = false) :
    s.memWrite a size v io =
      .next (s.raiseFatal ⟨.invalidAddress, a, size, .store, some (size.truncate v)⟩) := by
  simp [State.memWrite, aligned_iff.2 h, hv]

/-- A write of RAM stores its bytes and leaves only the trace record beside them. -/
theorem memWrite_ram {s : State} {a : Word} {size : Size} (v : Word) (io : Bool)
    (h : RamAccess s a size) :
    s.memWrite a size v io =
      .next { s.emit (accessEvents s .store a io) with mem := s.mem.writeSize a v size } := by
  obtain ⟨h1, h2⟩ := h
  obtain ⟨k, r, hr, hd⟩ := isRam_iff.1 h1
  simp only [State.memWrite, aligned_iff.2 h2, addressValid_of_isRam h1, State.busWrite,
    Bool.not_true, Bool.false_eq_true, ↓reduceIte, traceAccess_resolve, hr, State.regionWrite, hd,
    traceAccess_mem]
  rw [traceAccess_eq]
  rfl

/-- A write that reaches another device: what the device leaves, or what it refuses, for a word at
a word offset; else the refusal (R76). -/
theorem memWrite_device {s : State} {a : Word} {size : Size} {k : Nat} {r : Region} (v : Word)
    (io : Bool) (h : a.toNat % size.bytes = 0) (hr : s.resolve a = some (k, r))
    (hd : r.dev ≠ .ram) :
    s.memWrite a size v io =
      if deviceAccess (r.offset a) size then
        match r.dev.writeReg k (r.offset a) v with
        | .error e => .refused e
        | .ok d => .next ((s.emit (accessEvents s .store a io)).applyDevice k r d)
      else .refused .deviceNarrowAccess := by
  simp only [State.memWrite, aligned_iff.2 h, addressValid_of_resolve hr, State.busWrite,
    Bool.not_true, Bool.false_eq_true, ↓reduceIte, traceAccess_resolve, hr, State.regionWrite, hd]
  rw [traceAccess_eq]
  cases deviceAccess (r.offset a) size
  · rfl
  · cases r.dev.writeReg k (r.offset a) v <;> rfl

/-- A word access in a well-formed configuration is one that a device register gives a meaning. -/
theorem deviceAccess_word {s : State} (h : s.configOk = true) {a : Word} {k : Nat} {r : Region}
    (ha : a.toNat % 4 = 0) (hr : s.resolve a = some (k, r)) :
    deviceAccess (r.offset a) .word = true := by
  obtain ⟨h1, h2⟩ := resolve_some hr
  obtain ⟨hb, -, -, -⟩ := placed_of_configOk h (List.mem_of_getElem? h1)
  simp only [Region.contains, Bool.and_eq_true, decide_eq_true_eq] at h2
  have : (a.toNat - r.base.toNat) % 4 = 0 := by have := h2.1; omega
  simp [deviceAccess, Region.offset, this]

/-- Only a word access is one. -/
theorem deviceAccess_size {off : Nat} {size : Size} (h : deviceAccess off size = true) :
    size = .word := by
  simp only [deviceAccess, Bool.and_eq_true, decide_eq_true_eq] at h
  exact h.1

/-- A narrow access is none. -/
theorem deviceAccess_narrow {off : Nat} {size : Size} (h : size ≠ .word) :
    deviceAccess off size = false := by simp [deviceAccess, h]

end Sys2Proof.Machine
end

