-- ==== Sys2Proof/Laws/Devices.lean ====
section
/-! SUPPORT. What a device call can do: the device keeps its kind and configuration and its state in
order, and its line follows its line function (61_devices.md R352, R361). -/

namespace Sys2Proof.Machine

/-! ## The pending word (60_exceptions.md R316) -/

/-- The word with one bit set. -/
theorem oneBit (n : Line) (k : Nat) (hk : k < 32) :
    (1#32 <<< n.val).getLsbD k = decide (k = n.val) := by
  rw [BitVec.getLsbD_shiftLeft, BitVec.getLsbD_one, Bool.eq_iff_iff]
  simp only [Bool.and_eq_true, Bool.not_eq_true', decide_eq_true_eq, decide_eq_false_iff_not]
  omega

theorem assertLine_bit (irq : Word) (n : Line) (k : Nat) (hk : k < 32) :
    (assertLine irq n).getLsbD k = (decide (k = n.val) || irq.getLsbD k) := by
  rw [assertLine, BitVec.getLsbD_or, oneBit n k hk, Bool.or_comm]

theorem deassertLine_bit (irq : Word) (n : Line) (k : Nat) (hk : k < 32) :
    (deassertLine irq n).getLsbD k = (!decide (k = n.val) && irq.getLsbD k) := by
  rw [deassertLine, BitVec.getLsbD_and, BitVec.getLsbD_not, oneBit n k hk, Bool.and_comm]
  simp [hk]

/-- A driven line takes its level and leaves every other line alone. -/
theorem driveLine_bit (irq : Word) (n : Line) (l : Bool) (k : Nat) (hk : k < 32) :
    (driveLine irq (some n) (some l)).getLsbD k = if k = n.val then l else irq.getLsbD k := by
  cases l
  · exact (deassertLine_bit irq n k hk).trans (by by_cases h : k = n.val <;> simp [h])
  · exact (assertLine_bit irq n k hk).trans (by by_cases h : k = n.val <;> simp [h])

/-- A call that drives no level, or has no line, leaves the pending word alone. -/
@[simp] theorem driveLine_none (irq : Word) (line : Option Line) :
    driveLine irq line none = irq := by cases line <;> rfl

@[simp] theorem driveLine_no_line (irq : Word) (level : Option Bool) :
    driveLine irq none level = irq := rfl

/-- Lowering a line of an empty pending word leaves it empty. -/
theorem driveLine_zero (line : Option Line) : driveLine 0#32 line (some false) = 0#32 := by
  cases line <;> simp [driveLine, deassertLine]

/-! ## Calls -/

/-- `res` is what a device call leaves at the device `d`: a register read or a register write. -/
def DeviceCall (d : Device) (res : DeviceResult) : Prop :=
  (∃ off, res = (d.readReg off).2) ∨ ∃ dev off v, d.writeReg dev off v = .ok res

/-- What a call at a device in order leaves: the same configuration, a state in order, and a level
that is the line function, or none and an unchanged line function. -/
structure DeviceKept (d : Device) (dev' : Device) (level : Option Bool) : Prop where
  config : d.sameConfig dev' = true
  state : d.stateOk = true → dev'.stateOk = true
  line : ∀ l, dev'.line = some l → level = some l ∨ level = none ∧ d.line = some l

theorem Device.sameConfig_refl (d : Device) : d.sameConfig d = true := by
  cases d <;> simp [Device.sameConfig]

theorem DeviceKept.refl (d : Device) : DeviceKept d d none where
  config := d.sameConfig_refl
  state h := h
  line _ h := .inr ⟨rfl, h⟩

theorem Device.readReg_kept (d : Device) (off : Nat) :
    DeviceKept d (d.readReg off).2.dev (d.readReg off).2.level := by
  cases d with
  | serialPort st =>
    simp only [Device.readReg]
    split
    · exact ⟨rfl, fun _ => rfl, fun l h => .inl h⟩
    all_goals exact .refl _
  | debugChannel st =>
    simp only [Device.readReg]
    split
    · exact ⟨rfl, fun _ => rfl, fun l h => .inl h⟩
    all_goals exact .refl _
  | _ => exact .refl _

theorem TimerState.writeReg_kept {p : TimerParams} {t : TimerState} {off : Nat} {v : Word}
    {res : TimerState × Option Bool} (h : t.writeReg p off v = .ok res) :
    DeviceKept (.timer p t) (.timer p res.1) res.2 := by
  have cfg : ∀ u, (Device.timer p t).sameConfig (.timer p u) = true := fun u => by
    simp [Device.sameConfig]
  have hp : ∀ q, DeviceKept (.timer p t) (.timer p (t.writePeriod p q)) none := fun q => by
    refine ⟨cfg _, ?_, fun l hl => .inr ⟨rfl, ?_⟩⟩
    · unfold TimerState.writePeriod
      cases hf : p.fixedPeriod <;> cases ha : p.alwaysRun <;>
        simp [Device.stateOk, ha]
    · rw [← hl]
      unfold TimerState.writePeriod
      cases hf : p.fixedPeriod <;> cases ha : p.alwaysRun <;> rfl
  have hs : DeviceKept (.timer p t) (.timer p (t.writeSnapshot p)) none := by
    refine ⟨cfg _, ?_, fun l hl => .inr ⟨rfl, ?_⟩⟩
    · unfold TimerState.writeSnapshot
      cases p.hasSnapshot <;> simp [Device.stateOk]
    · rw [← hl]
      unfold TimerState.writeSnapshot
      cases p.hasSnapshot <;> rfl
  have hok : ∀ {x : TimerState × Option Bool},
      (Except.ok x : Except Refusal (TimerState × Option Bool)) = .ok res → x = res :=
    fun e => by injection e
  unfold TimerState.writeReg at h
  split at h
  · rw [← hok h]
    exact ⟨cfg _, fun hst => hst, fun l hl => .inl (by simpa [TimerState.writeStatus,
      Device.line, TimerState.line] using hl)⟩
  · unfold TimerState.writeControl at h
    simp only at h
    split at h
    · rw [← hok h]; exact ⟨cfg _, fun hst => hst, fun l hl => .inl hl⟩
    · next ha =>
      have ha : p.alwaysRun = false := by simpa using ha
      split at h
      · cases h
      · split at h
        · rw [← hok h]
          exact ⟨cfg _, fun _ => by simp [Device.stateOk], fun l hl => .inl hl⟩
        · split at h
          · rw [← hok h]
            exact ⟨cfg _, fun _ => by simp [Device.stateOk, ha], fun l hl => .inl hl⟩
          · rw [← hok h]
            exact ⟨cfg _, fun hst => hst, fun l hl => .inl hl⟩
  · rw [← hok h]; exact hp _
  · rw [← hok h]; exact hp _
  · rw [← hok h]; exact hs
  · rw [← hok h]; exact hs
  · rw [← hok h]; exact .refl _

theorem Device.writeReg_kept {d : Device} {dev off : Nat} {v : Word} {res : DeviceResult}
    (h : d.writeReg dev off v = .ok res) : DeviceKept d res.dev res.level := by
  have hok : ∀ {x : DeviceResult}, (Except.ok x : Except Refusal DeviceResult) = .ok res → x = res :=
    fun e => by injection e
  cases d with
  | ram => rw [← hok h]; exact .refl _
  | timer p t =>
    unfold Device.writeReg at h
    simp only at h
    split at h
    · cases h
    · next hw => rw [← hok h]; exact TimerState.writeReg_kept hw
  | serialPort st =>
    unfold Device.writeReg at h
    simp only at h
    split at h
    · rw [← hok h]; exact ⟨rfl, fun _ => rfl, fun l hl => .inl hl⟩
    · rw [← hok h]; exact ⟨rfl, fun _ => rfl, fun l hl => .inl hl⟩
    · rw [← hok h]; exact .refl _
  | debugChannel st =>
    unfold Device.writeReg at h
    simp only at h
    split at h
    · rw [← hok h]; exact ⟨rfl, fun _ => rfl, fun l hl => .inl hl⟩
    · rw [← hok h]; exact ⟨rfl, fun _ => rfl, fun l hl => .inl hl⟩
    · rw [← hok h]; exact .refl _
  | parallelIO dir p =>
    rw [← hok h]
    have cfg : ∀ q, (Device.parallelIO dir p).sameConfig (.parallelIO dir q) = true := fun q => by
      simp [Device.sameConfig]
    unfold PioState.writeReg
    split
    · cases dir
      · exact .refl _
      · exact ⟨cfg _, fun _ => rfl, fun l hl => .inr ⟨rfl, hl⟩⟩
    · exact ⟨cfg _, fun _ => rfl, fun l hl => .inl hl⟩
    · exact ⟨cfg _, fun _ => rfl, fun l hl => .inl (by simpa [Device.line, PioState.line] using hl)⟩
    · exact .refl _
  | characterDisplay len l =>
    have cfg : ∀ m, (Device.characterDisplay len l).sameConfig (.characterDisplay len m) = true :=
      fun m => by simp [Device.sameConfig]
    unfold Device.writeReg at h
    simp only at h
    split at h
    · rw [← hok h]
      refine ⟨cfg _, fun hst => ?_, fun l hl => by simp [Device.line] at hl⟩
      simp only [Device.stateOk, Bool.and_eq_true, decide_eq_true_eq] at hst ⊢
      unfold LcdState.command
      split
      · simp [LcdState.cleared]; omega
      · split
        · exact ⟨hst.1, by simp; omega⟩
        · split
          · exact ⟨hst.1, by simp; omega⟩
          · exact hst
    · rw [← hok h]
      refine ⟨cfg _, fun hst => ?_, fun l hl => by simp [Device.line] at hl⟩
      simp only [Device.stateOk, Bool.and_eq_true, decide_eq_true_eq] at hst ⊢
      exact ⟨by simp [LcdState.putChar, hst.1], Nat.mod_lt _ (by omega)⟩
    · rw [← hok h]; exact .refl _

/-- A device call keeps what every device call keeps. -/
theorem DeviceCall.kept {d : Device} {res : DeviceResult} (h : DeviceCall d res) :
    DeviceKept d res.dev res.level := by
  obtain ⟨off, rfl⟩ | ⟨dev, off, v, h⟩ := h
  · exact d.readReg_kept off
  · exact Device.writeReg_kept h

theorem Device.onClock_kept (d : Device) : DeviceKept d d.onClock.1 d.onClock.2 := by
  cases d with
  | timer p t =>
    unfold Device.onClock TimerState.onClock
    simp only
    split
    · exact .refl _
    · next hc =>
      split
      · refine ⟨by simp [Device.sameConfig], fun _ => ?_, fun l hl => ?_⟩
        · cases ha : p.alwaysRun <;> simp [Device.stateOk, ha]
        · cases hi : t.ito <;> simp_all [Device.line, TimerState.line]
      · exact ⟨by simp [Device.sameConfig], fun hst => hst, fun l hl => .inr ⟨rfl, hl⟩⟩
  | _ => exact .refl _

/-- A reset drives the line low and leaves the line function low. -/
theorem Device.resetDevice_kept (d : Device) (dev : Nat) :
    d.sameConfig (d.resetDevice dev).dev = true ∧
      ((0 : Nat) < (match d with | .characterDisplay len _ => len | _ => 1) →
        (d.resetDevice dev).dev.stateOk = true) ∧
      ((d.resetDevice dev).level = none ∨ (d.resetDevice dev).level = some false) ∧
      ∀ l, (d.resetDevice dev).dev.line = some l → l = false := by
  cases d with
  | timer p t =>
    refine ⟨by simp [Device.resetDevice, Device.sameConfig], fun _ => ?_, .inr rfl, fun l hl => ?_⟩
    · cases ha : p.alwaysRun <;>
        simp [Device.resetDevice, Device.stateOk, TimerState.resetState, ha]
    · simpa [Device.resetDevice, Device.line, TimerState.line, TimerState.resetState] using hl.symm
  | parallelIO dir p =>
    cases dir
    · exact ⟨rfl, fun _ => rfl, .inr rfl, fun l hl => by
        simpa [Device.resetDevice, Device.line, PioState.line] using hl.symm⟩
    · exact ⟨rfl, fun _ => rfl, .inr rfl, fun l hl => by
        simpa [Device.resetDevice, Device.line, PioState.line] using hl.symm⟩
  | characterDisplay len l =>
    refine ⟨by simp [Device.resetDevice, Device.sameConfig], fun h => ?_, .inl rfl, fun l hl => ?_⟩
    · simpa [Device.resetDevice, Device.stateOk, LcdState.cleared] using h
    · simp [Device.resetDevice, Device.line] at hl
  | ram => exact ⟨rfl, fun _ => rfl, .inl rfl, fun l hl => by simp [Device.resetDevice, Device.line] at hl⟩
  | serialPort st =>
    exact ⟨rfl, fun _ => rfl, .inr rfl, fun l hl => by
      simpa [Device.resetDevice, Device.line, SerialState.line, SerialState.empty] using hl.symm⟩
  | debugChannel st =>
    exact ⟨rfl, fun _ => rfl, .inr rfl, fun l hl => by
      simpa [Device.resetDevice, Device.line, SerialState.line, SerialState.empty] using hl.symm⟩

/-! ## All devices at once -/

/-- A device reset leaves the reset state and emits the reset events. -/
theorem Device.resetDevice_eq (d : Device) (dev : Nat) :
    (d.resetDevice dev).dev = d.afterReset ∧ (d.resetDevice dev).events = d.resetEvents dev := by
  cases d with
  | parallelIO dir p =>
    cases dir <;> refine ⟨rfl, ?_⟩ <;> simp [Device.resetDevice, Device.resetEvents, pioEvents]
  | _ => exact ⟨rfl, rfl⟩

/-- A device reset on an empty pending word leaves it empty. -/
theorem Device.resetDevice_line (d : Device) (dev : Nat) (line : Option Line) :
    driveLine 0#32 line (d.resetDevice dev).level = 0#32 := by
  rcases (d.resetDevice_kept dev).2.2.1 with h | h <;> rw [h]
  · exact driveLine_none _ _
  · exact driveLine_zero _

/-- Everything the reset of all devices does: each takes its reset state, no line is pending, and the
events follow one another in configuration order (70_reset_and_hazards.md R462). -/
theorem resetRegions_eq : ∀ (l : List Region) (k : Nat), resetRegions k 0#32 l =
    (l.map (fun r => { r with dev := r.dev.afterReset }), 0#32,
      (l.mapIdx fun i r => r.dev.resetEvents (k + i)).flatten)
  | [], _ => rfl
  | r :: rest, k => by
    simp only [resetRegions, r.dev.resetDevice_line, resetRegions_eq rest (k + 1),
      (r.dev.resetDevice_eq k).1, (r.dev.resetDevice_eq k).2]
    simp [List.mapIdx_cons, Nat.add_assoc, Nat.add_comm 1]

/-- Everything the clock of all devices does: one `OnClock` of each Timer, and the lines the Timers
drive, in configuration order (60_exceptions.md R310). -/
theorem clockRegions_eq : ∀ (l : List Region) (irq : Word),
    clockRegions irq l = (l.map Region.clocked, clockedLines irq l)
  | [], _ => rfl
  | r :: rest, irq => by
    have h : ({ r with dev := r.dev.onClock.1 } : Region) = r.clocked ∧
        driveLine irq r.irq r.dev.onClock.2 = clockedLines irq [r] := by
      obtain ⟨_, _, _, line, d⟩ := r
      cases d <;> exact ⟨rfl, by simp [Device.onClock, clockedLines]⟩
    simp only [clockRegions, h, clockRegions_eq rest]
    rfl

end Sys2Proof.Machine
end

