-- ==== Sys2Proof/Laws/Encoding.lean ====
section
/-! SUPPORT. The fields of the words that the encoder makes, and what a mask keeps of a word
(30_encoding.md R101 to R105). -/

namespace Sys2Proof

/-- The number of a register is its field's bits. -/
@[simp] theorem regBits_toFin (r : Reg) : (regBits r).toFin = r := rfl

/-! ## encodeIType -/

@[simp] theorem opField_encodeIType (op : BitVec 6) (a b : Reg) (imm : BitVec 16) :
    opField (encodeIType op a b imm) = op := by
  ext k hk
  simp only [opField, encodeIType, BitVec.getElem_extractLsb', BitVec.getLsbD_append]
  grind

@[simp] theorem aField_encodeIType (op : BitVec 6) (a b : Reg) (imm : BitVec 16) :
    aField (encodeIType op a b imm) = a := by
  have h : (encodeIType op a b imm).extractLsb' 27 5 = regBits a := by
    ext k hk
    simp only [encodeIType, BitVec.getElem_extractLsb', BitVec.getLsbD_append]
    grind
  rw [aField, h, regBits_toFin]

@[simp] theorem bField_encodeIType (op : BitVec 6) (a b : Reg) (imm : BitVec 16) :
    bField (encodeIType op a b imm) = b := by
  have h : (encodeIType op a b imm).extractLsb' 22 5 = regBits b := by
    ext k hk
    simp only [encodeIType, BitVec.getElem_extractLsb', BitVec.getLsbD_append]
    grind
  rw [bField, h, regBits_toFin]

@[simp] theorem imm16Field_encodeIType (op : BitVec 6) (a b : Reg) (imm : BitVec 16) :
    imm16Field (encodeIType op a b imm) = imm := by
  ext k hk
  simp only [imm16Field, encodeIType, BitVec.getElem_extractLsb', BitVec.getLsbD_append]
  grind

/-! ## encodeRType -/

@[simp] theorem opField_encodeRType (opx : BitVec 6) (a b c : Reg) (imm : BitVec 5) :
    opField (encodeRType opx a b c imm) = 0x3A#6 := by
  ext k hk
  simp only [opField, encodeRType, BitVec.getElem_extractLsb', BitVec.getLsbD_append]
  grind

@[simp] theorem opxField_encodeRType (opx : BitVec 6) (a b c : Reg) (imm : BitVec 5) :
    opxField (encodeRType opx a b c imm) = opx := by
  ext k hk
  simp only [opxField, encodeRType, BitVec.getElem_extractLsb', BitVec.getLsbD_append]
  grind

@[simp] theorem aField_encodeRType (opx : BitVec 6) (a b c : Reg) (imm : BitVec 5) :
    aField (encodeRType opx a b c imm) = a := by
  have h : (encodeRType opx a b c imm).extractLsb' 27 5 = regBits a := by
    ext k hk
    simp only [encodeRType, BitVec.getElem_extractLsb', BitVec.getLsbD_append]
    grind
  rw [aField, h, regBits_toFin]

@[simp] theorem bField_encodeRType (opx : BitVec 6) (a b c : Reg) (imm : BitVec 5) :
    bField (encodeRType opx a b c imm) = b := by
  have h : (encodeRType opx a b c imm).extractLsb' 22 5 = regBits b := by
    ext k hk
    simp only [encodeRType, BitVec.getElem_extractLsb', BitVec.getLsbD_append]
    grind
  rw [bField, h, regBits_toFin]

@[simp] theorem cField_encodeRType (opx : BitVec 6) (a b c : Reg) (imm : BitVec 5) :
    cField (encodeRType opx a b c imm) = c := by
  have h : (encodeRType opx a b c imm).extractLsb' 17 5 = regBits c := by
    ext k hk
    simp only [encodeRType, BitVec.getElem_extractLsb', BitVec.getLsbD_append]
    grind
  rw [cField, h, regBits_toFin]

@[simp] theorem imm5Field_encodeRType (opx : BitVec 6) (a b c : Reg) (imm : BitVec 5) :
    imm5Field (encodeRType opx a b c imm) = imm := by
  ext k hk
  simp only [imm5Field, encodeRType, BitVec.getElem_extractLsb', BitVec.getLsbD_append]
  grind

/-! ## encodeJType -/

@[simp] theorem opField_encodeJType (op : BitVec 6) (imm : BitVec 26) :
    opField (encodeJType op imm) = op := by
  ext k hk
  simp only [opField, encodeJType, BitVec.getElem_extractLsb', BitVec.getLsbD_append]
  grind

@[simp] theorem imm26Field_encodeJType (op : BitVec 6) (imm : BitVec 26) :
    imm26Field (encodeJType op imm) = imm := by
  ext k hk
  simp only [imm26Field, encodeJType, BitVec.getElem_extractLsb', BitVec.getLsbD_append]
  grind

/-! ## encodeCustom -/

@[simp] theorem opField_encodeCustom (op : BitVec 6) (a b c : Reg) (n : BitVec 11) :
    opField (encodeCustom op a b c n) = op := by
  ext k hk
  simp only [opField, encodeCustom, BitVec.getElem_extractLsb', BitVec.getLsbD_append]
  grind

@[simp] theorem aField_encodeCustom (op : BitVec 6) (a b c : Reg) (n : BitVec 11) :
    aField (encodeCustom op a b c n) = a := by
  have h : (encodeCustom op a b c n).extractLsb' 27 5 = regBits a := by
    ext k hk
    simp only [encodeCustom, BitVec.getElem_extractLsb', BitVec.getLsbD_append]
    grind
  rw [aField, h, regBits_toFin]

@[simp] theorem bField_encodeCustom (op : BitVec 6) (a b c : Reg) (n : BitVec 11) :
    bField (encodeCustom op a b c n) = b := by
  have h : (encodeCustom op a b c n).extractLsb' 22 5 = regBits b := by
    ext k hk
    simp only [encodeCustom, BitVec.getElem_extractLsb', BitVec.getLsbD_append]
    grind
  rw [bField, h, regBits_toFin]

@[simp] theorem cField_encodeCustom (op : BitVec 6) (a b c : Reg) (n : BitVec 11) :
    cField (encodeCustom op a b c n) = c := by
  have h : (encodeCustom op a b c n).extractLsb' 17 5 = regBits c := by
    ext k hk
    simp only [encodeCustom, BitVec.getElem_extractLsb', BitVec.getLsbD_append]
    grind
  rw [cField, h, regBits_toFin]

@[simp] theorem customField_encodeCustom (op : BitVec 6) (a b c : Reg) (n : BitVec 11) :
    customField (encodeCustom op a b c n) = n := by
  ext k hk
  simp only [customField, encodeCustom, BitVec.getElem_extractLsb', BitVec.getLsbD_append]
  grind

/-! ## Masks -/

/-- The mask of an I-type or J-type row keeps `OP` (30_encoding.md R105). -/
theorem and_opMask (w : Word) : w &&& 0x3F#32 = (opField w).setWidth 32 := by
  ext k hk
  have : (0x3F#32)[k] = decide (k < 6) := by
    have := hk; revert k; decide
  simp [opField, this, hk, Bool.and_comm]

/-- The mask of an R-type row keeps `OP` and `OPX` (30_encoding.md R105). -/
theorem and_opxMask (w : Word) :
    w &&& 0x1F83F#32 = (opxField w ++ 0#5 ++ opField w).setWidth 32 := by
  ext k hk
  have : (0x1F83F#32)[k] = (decide (k < 6) || (decide (11 ≤ k) && decide (k < 17))) := by
    have := hk; revert k; decide
  simp only [BitVec.getElem_and, this, BitVec.getElem_setWidth, BitVec.getLsbD_append, opField,
    opxField, BitVec.getLsbD_extractLsb', BitVec.getLsbD_zero]
  grind

/-! ## Bytes -/

/-- A word is its four bytes, the last the most significant. -/
theorem word_parts (w : Word) :
    w.extractLsb' 24 8 ++ w.extractLsb' 16 8 ++ w.extractLsb' 8 8 ++ w.extractLsb' 0 8 = w := by
  ext k hk
  simp only [BitVec.getElem_append]
  grind

/-- The bytes of a word make the word again. -/
@[simp] theorem wordOfBytes_bytes (w : Word) :
    wordOfBytes (w.extractLsb' 0 8) (w.extractLsb' 8 8) (w.extractLsb' 16 8) (w.extractLsb' 24 8) =
      w := word_parts w

/-- Decoding the bytes of a word decodes the word and leaves the rest. -/
theorem decodeBytes_bytesOfWord (w : Word) (rest : List Byte) :
    decodeBytes (bytesOfWord w ++ rest) = (decodeWord w).map fun i => (i, rest) := by
  simp only [bytesOfWord, List.cons_append, List.nil_append, decodeBytes, wordOfBytes_bytes]
  cases decodeWord w <;> rfl

/-- What the host's reading of a word of 32 bits is. -/
theorem decodeTableWord_toNat (w : Word) :
    decodeTableWord 32 w.toNat = (decodeWord w).toOption := by
  have h : BitVec.ofNat 32 (w.toNat % 2 ^ 32) = w := by
    rw [Nat.mod_eq_of_lt w.isLt, BitVec.ofNat_toNat, BitVec.setWidth_eq]
  rw [decodeTableWord, h, ← List.append_nil (bytesOfWord w), decodeBytes_bytesOfWord]
  cases decodeWord w <;> rfl

end Sys2Proof
end

