-- ==== Sys2Proof/Laws/Exec.lean ====
section
/-! SUPPORT. What each shared operation of the meanings can do, and what an instruction can do to
the machine outside the registers (40 to 47; 60_exceptions.md R313, R322). -/

namespace Sys2Proof.Machine

/-! ## Register results and control transfer -/

/-- A result goes to its destination register and nowhere else. -/
theorem writeResult_next {s t : State} {r : Reg} {v : Word} (h : writeResult s r v = .next t) :
    t = s.setReg r v := by injection h with h; exact h.symm

/-- A checked transfer does what it should at an aligned target and takes the exception at any
other. -/
theorem checkTarget_next {s t after : State} {a : Word} (h : checkTarget s a after = .next t) :
    a.toNat % 4 = 0 ∧ t = after ∨ a.toNat % 4 ≠ 0 ∧ t = s.takeException s.ipc := by
  unfold checkTarget at h
  split at h
  · next ha => exact .inl ⟨targetAligned_iff.1 ha, by injection h with h; exact h.symm⟩
  · next ha =>
    exact .inr ⟨fun e => ha (targetAligned_iff.2 e), by injection h with h; exact h.symm⟩

/-- A checked transfer always completes. -/
theorem checkTarget_eq (s after : State) (a : Word) :
    checkTarget s a after =
      .next (if a.toNat % 4 = 0 then after else s.takeException s.ipc) := by
  unfold checkTarget
  by_cases h : a.toNat % 4 = 0
  · rw [if_pos (targetAligned_iff.2 h), if_pos h]
  · rw [if_neg (fun e => h (targetAligned_iff.1 e)), if_neg h]

/-- A branch is a checked transfer when its relation holds, and nothing when it does not. -/
theorem branchIf_eq (s : State) (holds : Bool) (imm16 : BitVec 16) :
    branchIf s holds imm16 =
      if holds then transfer s (s.branchTarget imm16) else .next s := rfl

/-! ## Loads and stores (47_load_store.md R280) -/

/-- Everything a load can do when it completes: a fatal error that changes nothing else, a read of
RAM, or a device read. -/
theorem loadInto_next {s t : State} {rB : Reg} {ea : Word} {size : Size} {io : Bool}
    {ext : Word → Word} (h : loadInto s rB ea size io ext = .next t) :
    (∃ why, t = s.raiseFatal ⟨why, ea, size, .load, none⟩) ∨
    (RamAccess s ea size ∧
      t = (s.emit (accessEvents s .load ea io)).setReg rB (ext (s.mem.readSize ea size))) ∨
    ∃ k r, s.resolve ea = some (k, r) ∧ r.dev ≠ .ram ∧ size = .word ∧
      t = ((s.emit (accessEvents s .load ea io)).applyDevice k r
        (r.dev.readReg (r.offset ea)).2).setReg rB (ext (r.dev.readReg (r.offset ea)).1) := by
  unfold loadInto at h
  by_cases ha : ea.toNat % size.bytes = 0
  · cases hr : s.resolve ea with
    | none =>
      rw [memRead_unmapped io ha (by simp [State.addressValid, hr])] at h
      exact .inl ⟨_, by injection h with h; exact h.symm⟩
    | some x =>
      obtain ⟨k, r⟩ := x
      by_cases hd : r.dev = .ram
      · have hram : RamAccess s ea size := ⟨isRam_iff.2 ⟨k, r, hr, hd⟩, ha⟩
        rw [memRead_ram io hram] at h
        exact .inr (.inl ⟨hram, by injection h with h; exact h.symm⟩)
      · rw [memRead_device io ha hr hd] at h
        split at h
        · next he =>
          split at he
          · cases he
          · injection he with he; subst he; cases h
        · next he =>
          split at he
          · next hda =>
            injection he with he
            obtain ⟨rfl, rfl⟩ := Prod.mk.inj he
            refine .inr (.inr ⟨k, r, rfl, hd, ?_, by injection h with h; exact h.symm⟩)
            exact deviceAccess_size hda
          · cases he
  · rw [memRead_misaligned io ha] at h
    exact .inl ⟨_, by injection h with h; exact h.symm⟩

/-- Everything a store can do when it completes: a fatal error that changes nothing else, a write of
RAM, or a device write. -/
theorem storeFrom_next {s t : State} {rB : Reg} {ea : Word} {size : Size} {io : Bool}
    (h : storeFrom s rB ea size io = .next t) :
    (∃ why, t =
      s.raiseFatal ⟨why, ea, size, .store, some (size.truncate (s.getReg rB))⟩) ∨
    (RamAccess s ea size ∧
      t = { s.emit (accessEvents s .store ea io) with
        mem := s.mem.writeSize ea (s.getReg rB) size }) ∨
    ∃ k r d, s.resolve ea = some (k, r) ∧ r.dev ≠ .ram ∧ size = .word ∧
      r.dev.writeReg k (r.offset ea) (s.getReg rB) = .ok d ∧
      t = (s.emit (accessEvents s .store ea io)).applyDevice k r d := by
  unfold storeFrom at h
  by_cases ha : ea.toNat % size.bytes = 0
  · cases hr : s.resolve ea with
    | none =>
      rw [memWrite_unmapped _ io ha (by simp [State.addressValid, hr])] at h
      exact .inl ⟨_, by injection h with h; exact h.symm⟩
    | some x =>
      obtain ⟨k, r⟩ := x
      by_cases hd : r.dev = .ram
      · have hram : RamAccess s ea size := ⟨isRam_iff.2 ⟨k, r, hr, hd⟩, ha⟩
        rw [memWrite_ram _ io hram] at h
        exact .inr (.inl ⟨hram, by injection h with h; exact h.symm⟩)
      · rw [memWrite_device _ io ha hr hd] at h
        split at h
        · next hda =>
          split at h
          · cases h
          · next d hw =>
            refine .inr (.inr ⟨k, r, d, rfl, hd, ?_, hw, by injection h with h; exact h.symm⟩)
            exact deviceAccess_size hda
        · cases h
  · rw [memWrite_misaligned _ io ha] at h
    exact .inl ⟨_, by injection h with h; exact h.symm⟩

/-! ## What an instruction can do outside its results -/

/-- The bus and the pending word after at most one device call. -/
def BusEffect (s t : State) : Prop :=
  (t.bus = s.bus ∧ t.irq = s.irq) ∨
  ∃ k r res, s.bus[k]? = some r ∧ DeviceCall r.dev res ∧
    t.bus = s.bus.set k { r with dev := res.dev } ∧ t.irq = driveLine s.irq r.irq res.level

/-- The call depth and the stepping mode after at most one call or return. -/
def DepthEffect (s t : State) : Prop :=
  (t.callStackSize = s.callStackSize ∧ t.debuggingState = s.debuggingState) ∨
  (t.callStackSize = s.callStackSize + 1 ∧ t.debuggingState = s.debuggingState) ∨
  (t.callStackSize = s.callStackSize - 1 ∧
    t.debuggingState = modeAfterReturn s.debuggingState (s.callStackSize - 1) s.stepFrame)

/-- Everything an instruction can do to the parts of the machine that its own rule does not speak
of. -/
structure ExecEffect (s t : State) : Prop where
  cfg : t.cfg = s.cfg
  bp : t.bp = s.bp
  clock : t.clock = s.clock
  stepFrame : t.stepFrame = s.stepFrame
  started : t.started = s.started
  runState : t.runState = s.runState
  mem : t.mem = s.mem ∨ ∃ a v size, t.mem = s.mem.writeSize a v size
  zero : t.regs[0] = s.regs[0]
  pending : t.ctl[4] = s.ctl[4]
  bus : BusEffect s t
  depth : DepthEffect s t

/-- An instruction that leaves all of that alone. -/
theorem ExecEffect.plain {s t : State} (cfg : t.cfg = s.cfg) (bp : t.bp = s.bp)
    (clock : t.clock = s.clock) (stepFrame : t.stepFrame = s.stepFrame)
    (started : t.started = s.started) (runState : t.runState = s.runState) (mem : t.mem = s.mem)
    (zero : t.regs[0] = s.regs[0]) (pending : t.ctl[4] = s.ctl[4]) (bus : t.bus = s.bus)
    (irq : t.irq = s.irq) (depth : t.callStackSize = s.callStackSize)
    (mode : t.debuggingState = s.debuggingState) : ExecEffect s t :=
  ⟨cfg, bp, clock, stepFrame, started, runState, .inl mem, zero, pending, .inl ⟨bus, irq⟩,
    .inl ⟨depth, mode⟩⟩

/-- A register write leaves the cell of register 0 alone (10_state.md R21). -/
theorem setReg_cell_zero (s : State) (r : Reg) (v : Word) : (s.setReg r v).regs[0] = s.regs[0] := by
  rw [setReg_regs]
  split
  · rfl
  · next h =>
    have : (r : Nat) ≠ 0 := fun e => h (Fin.ext e)
    exact Vector.getElem_set_ne _ _ this

/-- A control-register write leaves the cell of ipending alone (10_state.md R28). -/
theorem setCtl_cell_four (s : State) (n : CtlReg) (v : Word) :
    (s.setCtl n v).ctl[4] = s.ctl[4] := by
  rw [setCtl_ctl]
  split
  · rfl
  · next h =>
    have : (n : Nat) ≠ 4 := fun e => h (Fin.ext e)
    exact Vector.getElem_set_ne _ _ this

theorem effect_refl (s : State) : ExecEffect s s := by apply ExecEffect.plain <;> rfl

theorem effect_setReg (s : State) (r : Reg) (v : Word) : ExecEffect s (s.setReg r v) := by
  apply ExecEffect.plain <;> first | rfl | exact setReg_cell_zero s r v

theorem effect_setPc (s : State) (v : Word) : ExecEffect s (s.setPc v) := by
  apply ExecEffect.plain <;> rfl

theorem effect_setCtl (s : State) (n : CtlReg) (v : Word) : ExecEffect s (s.setCtl n v) := by
  apply ExecEffect.plain <;> first | rfl | exact setCtl_cell_four s n v

theorem effect_raiseFatal (s : State) (e : FatalError) : ExecEffect s (s.raiseFatal e) := by
  apply ExecEffect.plain <;> rfl

theorem effect_takeException (s : State) (p : Word) : ExecEffect s (s.takeException p) := by
  apply ExecEffect.plain <;> first | rfl | simp [Vector.getElem_set_ne]

theorem effect_returnFromException (s : State) : ExecEffect s s.returnFromException := by
  apply ExecEffect.plain <;> first | rfl | simp [Vector.getElem_set_ne]

theorem effect_transfer {s t : State} {a : Word} (h : transfer s a = .next t) :
    ExecEffect s t := by
  obtain ⟨-, rfl⟩ | ⟨-, rfl⟩ := checkTarget_next h
  · exact effect_setPc _ _
  · exact effect_takeException _ _

theorem effect_callTo {s t : State} {a : Word} (h : callTo s a = .next t) : ExecEffect s t := by
  obtain ⟨-, rfl⟩ | ⟨-, rfl⟩ := checkTarget_next h
  · exact ⟨rfl, rfl, rfl, rfl, rfl, rfl, .inl rfl, setReg_cell_zero s raReg s.pc, rfl,
      .inl ⟨rfl, rfl⟩, .inr (.inl ⟨rfl, rfl⟩)⟩
  · exact effect_takeException _ _

theorem effect_branchIf {s t : State} {b : Bool} {imm16 : BitVec 16}
    (h : branchIf s b imm16 = .next t) : ExecEffect s t := by
  rw [branchIf_eq] at h
  split at h
  · exact effect_transfer h
  · injection h with h; subst h; exact effect_refl _

theorem effect_loadInto {s t : State} {rB : Reg} {ea : Word} {size : Size} {io : Bool}
    {ext : Word → Word} (h : loadInto s rB ea size io ext = .next t) : ExecEffect s t := by
  obtain ⟨why, rfl⟩ | ⟨-, rfl⟩ | ⟨k, r, hr, -, -, rfl⟩ := loadInto_next h
  · exact effect_raiseFatal _ _
  · apply ExecEffect.plain <;> first | rfl | exact setReg_cell_zero _ _ _
  · exact ⟨rfl, rfl, rfl, rfl, rfl, rfl, .inl rfl, setReg_cell_zero _ _ _, rfl,
      .inr ⟨k, r, _, (resolve_some hr).1, .inl ⟨_, rfl⟩, rfl, rfl⟩, .inl ⟨rfl, rfl⟩⟩

theorem effect_storeFrom {s t : State} {rB : Reg} {ea : Word} {size : Size} {io : Bool}
    (h : storeFrom s rB ea size io = .next t) : ExecEffect s t := by
  obtain ⟨why, rfl⟩ | ⟨-, rfl⟩ | ⟨k, r, d, hr, -, -, hw, rfl⟩ := storeFrom_next h
  · exact effect_raiseFatal _ _
  · exact ⟨rfl, rfl, rfl, rfl, rfl, rfl, .inr ⟨_, _, _, rfl⟩, rfl, rfl, .inl ⟨rfl, rfl⟩,
      .inl ⟨rfl, rfl⟩⟩
  · exact ⟨rfl, rfl, rfl, rfl, rfl, rfl, .inl rfl, rfl, rfl,
      .inr ⟨k, r, d, (resolve_some hr).1, .inr ⟨_, _, _, hw⟩, rfl, rfl⟩, .inl ⟨rfl, rfl⟩⟩

theorem effect_writeResult {s t : State} {r : Reg} {v : Word} (h : writeResult s r v = .next t) :
    ExecEffect s t := by
  rw [writeResult_next h]; exact effect_setReg _ _ _

theorem effect_next {s t u : State} (h : (.next u : StepOutcome) = .next t) (hu : ExecEffect s u) :
    ExecEffect s t := by injection h with h; exact h ▸ hu

theorem effect_div {s t : State} {rC rA rB : Reg} (h : execDiv rC rA rB s = .next t) :
    ExecEffect s t := by
  unfold execDiv at h
  split at h
  · exact effect_next h (effect_refl _)
  · split at h
    · refine effect_next h ?_
      apply ExecEffect.plain <;> first | rfl | exact setReg_cell_zero _ _ _
    · exact effect_writeResult h

theorem effect_divu {s t : State} {rC rA rB : Reg} (h : execDivu rC rA rB s = .next t) :
    ExecEffect s t := by
  unfold execDivu at h
  split at h
  · exact effect_next h (effect_refl _)
  · exact effect_writeResult h

/-- Everything an instruction can do outside its own results. -/
theorem exec_effect {i : Instr} {s t : State} (h : exec i s = .next t) : ExecEffect s t := by
  cases i
  case div => exact effect_div h
  case divu => exact effect_divu h
  case ret =>
    refine effect_next h ?_
    exact ⟨rfl, rfl, rfl, rfl, rfl, rfl, .inl rfl, rfl, rfl, .inl ⟨rfl, rfl⟩,
      .inr (.inr ⟨rfl, rfl⟩)⟩
  case muli =>
    simp only [exec, execMuli] at h
    split at h
    · exact effect_next h (effect_takeException _ _)
    · exact effect_writeResult h
  case nextpc =>
    simp only [exec, execNextpc] at h
    split at h
    · exact effect_next h (effect_takeException _ _)
    · exact effect_writeResult h
  case trap =>
    simp only [exec, execTrap] at h
    split at h <;> exact effect_next h (effect_takeException _ _)
  case brk =>
    simp only [exec, execBrk] at h
    split at h
    · exact effect_next h (effect_takeException _ _)
    · cases h
  case eret => exact effect_next h (effect_returnFromException _)
  case wrctl => exact effect_next h (effect_setCtl _ _ _)
  case stb rB rA imm16 =>
    exact effect_storeFrom (rB := rB) (ea := s.effectiveAddress rA imm16) (size := .byte)
      (io := false) h
  case stbio rB rA imm16 =>
    exact effect_storeFrom (rB := rB) (ea := s.effectiveAddress rA imm16) (size := .byte)
      (io := true) h
  all_goals first
    | exact effect_writeResult h
    | exact effect_loadInto h
    | exact effect_storeFrom h
    | exact effect_branchIf h
    | exact effect_transfer h
    | exact effect_callTo h
    | exact effect_next h (effect_refl _)
    | exact effect_next h (effect_takeException _ _)

end Sys2Proof.Machine
end

