-- ==== Sys2Proof/Laws/Memory.lean ====
section
/-! SUPPORT. The laws of the sparse tables: a read after a write, the canonical form that every
operation keeps, and the bytes of a wide access (20_memory.md R68; 62_debug_stepping.md R431). -/

namespace Sys2Proof.Machine

/-! ## Sparse tables -/

section
variable {α : Type} [DecidableEq α] {dflt : α} {hi : Nat}

theorem sparseWf_mono {lo lo' : Nat} (h : lo' ≤ lo) :
    ∀ {l : List (Nat × α)}, sparseWf dflt hi lo l = true → sparseWf dflt hi lo' l = true
  | [], _ => rfl
  | (k, x) :: rest, hl => by
    simp only [sparseWf, Bool.and_eq_true, decide_eq_true_eq] at hl ⊢
    exact ⟨⟨⟨by omega, hl.1.1.2⟩, hl.1.2⟩, hl.2⟩

/-- Nothing is listed below the least admitted key. -/
theorem sparseRead_below : ∀ {lo : Nat} {l : List (Nat × α)} {a : Nat},
    sparseWf dflt hi lo l = true → a < lo → sparseRead dflt l a = dflt
  | _, [], _, _, _ => rfl
  | lo, (k, x) :: rest, a, hl, h => by
    simp only [sparseWf, Bool.and_eq_true, decide_eq_true_eq] at hl
    rw [sparseRead, if_neg (by omega)]
    exact sparseRead_below hl.2 (by omega)

/-- A read after a write: the value at its key, everything else as before. -/
theorem sparseRead_sparseWrite : ∀ {lo : Nat} {l : List (Nat × α)} (a b : Nat) (v : α),
    sparseWf dflt hi lo l = true →
    sparseRead dflt (sparseWrite dflt l a v) b = if b = a then v else sparseRead dflt l b
  | _, [], a, b, v, _ => by
    by_cases hv : v = dflt <;> by_cases hb : b = a <;> simp [sparseWrite, sparseRead, hv, hb]
  | lo, (k, x) :: rest, a, b, v, hl => by
    have hl' := hl
    simp only [sparseWf, Bool.and_eq_true, decide_eq_true_eq] at hl
    have below : ∀ c, c ≤ k → sparseRead dflt rest c = dflt := fun c hc =>
      sparseRead_below hl.2 (by omega)
    unfold sparseWrite
    split
    · next h =>
      by_cases hv : v = dflt
      · by_cases hb : b = a
        · subst hb
          simp [hv, sparseRead, below b (by omega), show b ≠ k by omega]
        · simp [hv, hb]
      · by_cases hb : b = a <;> simp [hv, hb, sparseRead]
    · split
      · next h h' =>
        subst h'
        by_cases hv : v = dflt
        · by_cases hb : b = a
          · subst hb; simp [hv, below b (Nat.le_refl b)]
          · simp [hv, hb, sparseRead]
        · by_cases hb : b = a <;> simp [hv, hb, sparseRead]
      · next h h' =>
        rw [sparseRead, sparseRead, sparseRead_sparseWrite a b v hl.2]
        by_cases hb : b = k
        · simp [hb, show k ≠ a by omega]
        · simp [hb]

/-- A write keeps the canonical form. -/
theorem sparseWrite_wf : ∀ {lo : Nat} {l : List (Nat × α)} (a : Nat) (v : α),
    sparseWf dflt hi lo l = true → lo ≤ a → a < hi →
    sparseWf dflt hi lo (sparseWrite dflt l a v) = true
  | _, [], a, v, _, h1, h2 => by
    by_cases hv : v = dflt <;> simp [sparseWrite, sparseWf, hv, h1, h2]
  | lo, (k, x) :: rest, a, v, hl, h1, h2 => by
    have hl' := hl
    simp only [sparseWf, Bool.and_eq_true, decide_eq_true_eq] at hl
    unfold sparseWrite
    split
    · next h =>
      by_cases hv : v = dflt
      · simpa [hv] using hl'
      · simp only [hv, ↓reduceIte, sparseWf, Bool.and_eq_true, decide_eq_true_eq]
        exact ⟨⟨⟨h1, h2⟩, hv⟩, ⟨⟨⟨by omega, hl.1.1.2⟩, hl.1.2⟩, hl.2⟩⟩
    · split
      · next h h' =>
        subst h'
        by_cases hv : v = dflt
        · simp only [hv, ↓reduceIte]
          exact sparseWf_mono (by omega) hl.2
        · simp only [hv, ↓reduceIte, sparseWf, Bool.and_eq_true, decide_eq_true_eq]
          exact ⟨⟨⟨h1, h2⟩, hv⟩, hl.2⟩
      · next h h' =>
        simp only [sparseWf, Bool.and_eq_true, decide_eq_true_eq]
        exact ⟨hl.1, sparseWrite_wf a v hl.2 (by omega) h2⟩

/-- Two tables in canonical form that read alike are the same list. -/
theorem sparse_ext : ∀ {lo : Nat} {l m : List (Nat × α)},
    sparseWf dflt hi lo l = true → sparseWf dflt hi lo m = true →
    (∀ a, sparseRead dflt l a = sparseRead dflt m a) → l = m
  | _, [], [], _, _, _ => rfl
  | _, [], (k, x) :: rest, _, hm, h => by
    simp only [sparseWf, Bool.and_eq_true, decide_eq_true_eq] at hm
    have := h k
    simp [sparseRead] at this
    exact absurd this.symm hm.1.2
  | _, (k, x) :: rest, [], hl, _, h => by
    simp only [sparseWf, Bool.and_eq_true, decide_eq_true_eq] at hl
    have := h k
    simp [sparseRead] at this
    exact absurd this hl.1.2
  | lo, (k, x) :: rest, (j, y) :: tail, hl, hm, h => by
    simp only [sparseWf, Bool.and_eq_true, decide_eq_true_eq] at hl hm
    have hk := h k
    have hj := h j
    rw [sparseRead, sparseRead] at hk hj
    have hkj : k = j := by
      rcases Nat.lt_trichotomy k j with hlt | heq | hgt
      · rw [if_pos rfl, if_neg (by omega), sparseRead_below hm.2 (by omega)] at hk
        exact absurd hk hl.1.2
      · exact heq
      · rw [if_pos rfl, if_neg (by omega), sparseRead_below hl.2 (by omega)] at hj
        exact absurd hj.symm hm.1.2
    subst hkj
    have hxy : x = y := by simpa using hk
    subst hxy
    refine congrArg _ (sparse_ext hl.2 hm.2 fun a => ?_)
    have ha := h a
    rw [sparseRead, sparseRead] at ha
    by_cases e : a = k
    · rw [sparseRead_below hl.2 (by omega), sparseRead_below hm.2 (by omega)]
    · simpa [e] using ha

end

/-! ## Memory -/

/-- A byte reads as last written; every other byte is left alone (20_memory.md R79). -/
theorem Memory.read_write {m : Memory} (h : m.wf = true) (a b : Word) (v : Byte) :
    (m.write a v).read b = if b = a then v else m.read b := by
  unfold Memory.read Memory.write
  rw [sparseRead_sparseWrite _ _ _ h]
  by_cases e : b = a
  · simp [e]
  · simp [e, BitVec.toNat_inj]

theorem Memory.write_wf {m : Memory} (h : m.wf = true) (a : Word) (v : Byte) :
    (m.write a v).wf = true :=
  sparseWrite_wf _ _ h (Nat.zero_le _) a.isLt

theorem Memory.writeSize_wf {m : Memory} (h : m.wf = true) (a v : Word) (size : Size) :
    (m.writeSize a v size).wf = true := by
  cases size <;> simp only [Memory.writeSize]
  · exact write_wf h _ _
  · exact write_wf (write_wf h _ _) _ _
  · exact write_wf (write_wf (write_wf (write_wf h _ _) _ _) _ _) _ _

theorem Memory.writeBytes_wf : ∀ (bytes : List Byte) {m : Memory} (_ : m.wf = true) (a : Word),
    (m.writeBytes a bytes).wf = true
  | [], _, h, _ => h
  | _ :: rest, _, h, _ => writeBytes_wf rest (write_wf h _ _) _

theorem Memory.loadSegments_wf : ∀ (segments : List Segment) {m : Memory} (_ : m.wf = true),
    (m.loadSegments segments).wf = true
  | [], _, h => h
  | _ :: rest, _, h => loadSegments_wf rest (writeBytes_wf _ h _)

/-- Everything a copy of bytes does: each byte of its range reads as supplied, every other as before
(70_reset_and_hazards.md R466 (2)). -/
theorem Memory.read_writeBytes : ∀ (l : List Byte) {m : Memory} (a b : Word), m.wf = true →
    a.toNat + l.length ≤ 2 ^ 32 →
    (m.writeBytes a l).read b =
      if h : a.toNat ≤ b.toNat ∧ b.toNat - a.toNat < l.length then l[b.toNat - a.toNat]
      else m.read b
  | [], _, _, _, _, _ => by simp [Memory.writeBytes]
  | x :: l, m, a, b, hm, hl => by
    simp only [List.length_cons] at hl
    unfold Memory.writeBytes
    by_cases hl0 : l = []
    · subst hl0
      rw [Memory.writeBytes, read_write hm]
      by_cases e : b = a
      · simp [e]
      · have : b.toNat ≠ a.toNat := fun q => e (BitVec.eq_of_toNat_eq q)
        rw [if_neg e, dif_neg (by simp; omega)]
    have hp : 0 < l.length := List.length_pos_of_ne_nil hl0
    have ea : (a + 1#32).toNat = a.toNat + 1 := by rw [BitVec.toNat_add]; simp; omega
    rw [read_writeBytes l _ b (write_wf hm _ _) (by omega), read_write hm]
    by_cases e : b = a
    · subst e
      rw [dif_neg (by omega), if_pos rfl, dif_pos (by simp)]; simp
    · have : b.toNat ≠ a.toNat := fun q => e (BitVec.eq_of_toNat_eq q)
      rw [if_neg e]
      by_cases q : a.toNat + 1 ≤ b.toNat ∧ b.toNat - (a.toNat + 1) < l.length
      · have hk : b.toNat - a.toNat = (b.toNat - (a.toNat + 1)) + 1 := by omega
        rw [dif_pos (by rw [ea]; exact q), dif_pos (by simp only [List.length_cons]; omega)]
        simp only [hk, List.getElem_cons_succ, ea]
      · rw [dif_neg (by rw [ea]; exact q), dif_neg (by simp only [List.length_cons]; omega)]

theorem Segment.contents_length {g : Segment} (h : g.bytes.length ≤ g.memlen) :
    g.contents.length = g.memlen := by simp [Segment.contents]; omega

/-- The memory of the reset state is in canonical form. -/
theorem reset_mem_wf : State.reset.mem.wf = true := rfl

/-- Four successive bytes have different addresses. -/
theorem succ_addr_ne (a : Word) :
    a + 1#32 ≠ a ∧ a + 2#32 ≠ a ∧ a + 3#32 ≠ a ∧ a + 2#32 ≠ a + 1#32 ∧
      a + 3#32 ≠ a + 1#32 ∧ a + 3#32 ≠ a + 2#32 := by
  refine ⟨?_, ?_, ?_, ?_, ?_, ?_⟩ <;> intro h <;>
    (have := congrArg BitVec.toNat h; simp [BitVec.toNat_add] at this; omega)

/-- What a byte is after a wide write: its part of the value inside, as before outside. -/
theorem Memory.read_writeSize {m : Memory} (h : m.wf = true) (a v b : Word) (size : Size) :
    (m.writeSize a v size).read b =
      match size with
      | .byte => if b = a then v.extractLsb' 0 8 else m.read b
      | .half =>
        if b = a + 1#32 then v.extractLsb' 8 8
        else if b = a then v.extractLsb' 0 8 else m.read b
      | .word =>
        if b = a + 3#32 then v.extractLsb' 24 8
        else if b = a + 2#32 then v.extractLsb' 16 8
        else if b = a + 1#32 then v.extractLsb' 8 8
        else if b = a then v.extractLsb' 0 8 else m.read b := by
  have w1 := write_wf h a (v.extractLsb' 0 8)
  have w2 := write_wf w1 (a + 1#32) (v.extractLsb' 8 8)
  have w3 := write_wf w2 (a + 2#32) (v.extractLsb' 16 8)
  cases size
  · exact read_write h _ _ _
  · exact (read_write w1 _ _ _).trans (by rw [read_write h])
  · exact (read_write w3 _ _ _).trans (by rw [read_write w2, read_write w1, read_write h])

/-- A wide value reads back as it was written, cut to its width (20_memory.md R68). -/
theorem Memory.readSize_writeSize {m : Memory} (h : m.wf = true) (a v : Word) (size : Size) :
    (m.writeSize a v size).readSize a size = size.truncate v := by
  obtain ⟨h1, h2, h3, h4, h5, h6⟩ := succ_addr_ne a
  have hr := fun b => read_writeSize h a v b size
  cases size <;> simp only [readSize, Size.truncate]
  · rw [hr]; simp
  · rw [hr, hr]
    simp only [↓reduceIte, h1.symm]
    congr 1
    ext k hk
    simp only [BitVec.getElem_append, BitVec.getElem_extractLsb']
    split
    · rfl
    · rw [show 8 + (k - 8) = 0 + k by omega]
  · rw [hr, hr, hr, hr]
    simp only [↓reduceIte, h1.symm, h2.symm, h3.symm, h4.symm, h5.symm, h6.symm]
    exact word_parts v

/-! ## Breakpoint counts (62_debug_stepping.md R431, R432) -/

theorem Breakpoints.arm_wf {b : Breakpoints} (h : b.wf = true) (a : Word) :
    (b.arm a).wf = true :=
  sparseWrite_wf _ _ h (Nat.zero_le _) a.isLt

theorem Breakpoints.disarm_wf {b : Breakpoints} (h : b.wf = true) (a : Word) :
    (b.disarm a).wf = true :=
  sparseWrite_wf _ _ h (Nat.zero_le _) a.isLt

theorem Breakpoints.count_arm {b : Breakpoints} (h : b.wf = true) (a c : Word) :
    (b.arm a).count c = if c = a then b.count a + 1 else b.count c := by
  unfold Breakpoints.count Breakpoints.arm
  rw [sparseRead_sparseWrite _ _ _ h]
  by_cases e : c = a
  · simp [e, Breakpoints.count]
  · simp [e, BitVec.toNat_inj]

theorem Breakpoints.count_disarm {b : Breakpoints} (h : b.wf = true) (a c : Word) :
    (b.disarm a).count c = if c = a then b.count a - 1 else b.count c := by
  unfold Breakpoints.count Breakpoints.disarm
  rw [sparseRead_sparseWrite _ _ _ h]
  by_cases e : c = a
  · simp [e, Breakpoints.count]
  · simp [e, BitVec.toNat_inj]

end Sys2Proof.Machine
end

