-- ==== Sys2Proof/Laws/PerInstr.lean ====
section
/-! SUPPORT. A fact about every instruction, one lemma for each constructor: its encoding is in its
row of spec/opcode_table.json. -/

namespace Sys2Proof.Laws.EncodingRow

/-- The `mask` and the `match` of an instruction's row of spec/opcode_table.json. -/
def tableRow : Instr → Word × Word
  | .call _ => (0x3F#32, 0x0#32)
  | .jmpi _ => (0x3F#32, 0x1#32)
  | .ldbu _ _ _ => (0x3F#32, 0x3#32)
  | .addi _ _ _ => (0x3F#32, 0x4#32)
  | .stb _ _ _ => (0x3F#32, 0x5#32)
  | .br _ => (0x3F#32, 0x6#32)
  | .ldb _ _ _ => (0x3F#32, 0x7#32)
  | .cmpgei _ _ _ => (0x3F#32, 0x8#32)
  | .ldhu _ _ _ => (0x3F#32, 0xB#32)
  | .andi _ _ _ => (0x3F#32, 0xC#32)
  | .sth _ _ _ => (0x3F#32, 0xD#32)
  | .bge _ _ _ => (0x3F#32, 0xE#32)
  | .ldh _ _ _ => (0x3F#32, 0xF#32)
  | .cmplti _ _ _ => (0x3F#32, 0x10#32)
  | .initda _ _ => (0x3F#32, 0x13#32)
  | .ori _ _ _ => (0x3F#32, 0x14#32)
  | .stw _ _ _ => (0x3F#32, 0x15#32)
  | .blt _ _ _ => (0x3F#32, 0x16#32)
  | .ldw _ _ _ => (0x3F#32, 0x17#32)
  | .cmpnei _ _ _ => (0x3F#32, 0x18#32)
  | .flushda _ _ => (0x3F#32, 0x1B#32)
  | .xori _ _ _ => (0x3F#32, 0x1C#32)
  | .bne _ _ _ => (0x3F#32, 0x1E#32)
  | .cmpeqi _ _ _ => (0x3F#32, 0x20#32)
  | .ldbuio _ _ _ => (0x3F#32, 0x23#32)
  | .muli _ _ _ => (0x3F#32, 0x24#32)
  | .stbio _ _ _ => (0x3F#32, 0x25#32)
  | .beq _ _ _ => (0x3F#32, 0x26#32)
  | .ldbio _ _ _ => (0x3F#32, 0x27#32)
  | .cmpgeui _ _ _ => (0x3F#32, 0x28#32)
  | .ldhuio _ _ _ => (0x3F#32, 0x2B#32)
  | .andhi _ _ _ => (0x3F#32, 0x2C#32)
  | .sthio _ _ _ => (0x3F#32, 0x2D#32)
  | .bgeu _ _ _ => (0x3F#32, 0x2E#32)
  | .ldhio _ _ _ => (0x3F#32, 0x2F#32)
  | .cmpltui _ _ _ => (0x3F#32, 0x30#32)
  | .custom _ _ _ _ => (0x3F#32, 0x32#32)
  | .initd _ _ => (0x3F#32, 0x33#32)
  | .orhi _ _ _ => (0x3F#32, 0x34#32)
  | .stwio _ _ _ => (0x3F#32, 0x35#32)
  | .bltu _ _ _ => (0x3F#32, 0x36#32)
  | .ldwio _ _ _ => (0x3F#32, 0x37#32)
  | .rdprs _ _ _ => (0x3F#32, 0x38#32)
  | .flushd _ _ => (0x3F#32, 0x3B#32)
  | .xorhi _ _ _ => (0x3F#32, 0x3C#32)
  | .eret => (0x1F83F#32, 0x83A#32)
  | .roli _ _ _ => (0x1F83F#32, 0x103A#32)
  | .rol _ _ _ => (0x1F83F#32, 0x183A#32)
  | .flushp => (0x1F83F#32, 0x203A#32)
  | .ret => (0x1F83F#32, 0x283A#32)
  | .nor _ _ _ => (0x1F83F#32, 0x303A#32)
  | .mulxuu _ _ _ => (0x1F83F#32, 0x383A#32)
  | .cmpge _ _ _ => (0x1F83F#32, 0x403A#32)
  | .bret => (0x1F83F#32, 0x483A#32)
  | .ror _ _ _ => (0x1F83F#32, 0x583A#32)
  | .flushi _ => (0x1F83F#32, 0x603A#32)
  | .jmp _ => (0x1F83F#32, 0x683A#32)
  | .and _ _ _ => (0x1F83F#32, 0x703A#32)
  | .cmplt _ _ _ => (0x1F83F#32, 0x803A#32)
  | .slli _ _ _ => (0x1F83F#32, 0x903A#32)
  | .sll _ _ _ => (0x1F83F#32, 0x983A#32)
  | .wrprs _ _ => (0x1F83F#32, 0xA03A#32)
  | .or _ _ _ => (0x1F83F#32, 0xB03A#32)
  | .mulxsu _ _ _ => (0x1F83F#32, 0xB83A#32)
  | .cmpne _ _ _ => (0x1F83F#32, 0xC03A#32)
  | .srli _ _ _ => (0x1F83F#32, 0xD03A#32)
  | .srl _ _ _ => (0x1F83F#32, 0xD83A#32)
  | .nextpc _ => (0x1F83F#32, 0xE03A#32)
  | .callr _ => (0x1F83F#32, 0xE83A#32)
  | .xor _ _ _ => (0x1F83F#32, 0xF03A#32)
  | .mulxss _ _ _ => (0x1F83F#32, 0xF83A#32)
  | .cmpeq _ _ _ => (0x1F83F#32, 0x1003A#32)
  | .divu _ _ _ => (0x1F83F#32, 0x1203A#32)
  | .div _ _ _ => (0x1F83F#32, 0x1283A#32)
  | .rdctl _ _ => (0x1F83F#32, 0x1303A#32)
  | .mul _ _ _ => (0x1F83F#32, 0x1383A#32)
  | .cmpgeu _ _ _ => (0x1F83F#32, 0x1403A#32)
  | .initi _ => (0x1F83F#32, 0x1483A#32)
  | .trap => (0x1F83F#32, 0x1683A#32)
  | .wrctl _ _ => (0x1F83F#32, 0x1703A#32)
  | .cmpltu _ _ _ => (0x1F83F#32, 0x1803A#32)
  | .add _ _ _ => (0x1F83F#32, 0x1883A#32)
  | .brk => (0x1F83F#32, 0x1A03A#32)
  | .sync => (0x1F83F#32, 0x1B03A#32)
  | .sub _ _ _ => (0x1F83F#32, 0x1C83A#32)
  | .srai _ _ _ => (0x1F83F#32, 0x1D03A#32)
  | .sra _ _ _ => (0x1F83F#32, 0x1D83A#32)

/-- What the mask of an R-type row keeps of an encoded word. -/
theorem opxRow (opx : BitVec 6) (a b c : Reg) (imm : BitVec 5) :
    encodeRType opx a b c imm &&& 0x1F83F#32 = (opx ++ 0#5 ++ 0x3A#6).setWidth 32 := by
  rw [and_opxMask, opField_encodeRType, opxField_encodeRType]

theorem opRow_encodeIType (op : BitVec 6) (a b : Reg) (imm : BitVec 16) :
    encodeIType op a b imm &&& 0x3F#32 = op.setWidth 32 := by
  rw [and_opMask, opField_encodeIType]

theorem opRow_encodeJType (op : BitVec 6) (imm : BitVec 26) :
    encodeJType op imm &&& 0x3F#32 = op.setWidth 32 := by
  rw [and_opMask, opField_encodeJType]

theorem opRow_encodeCustom (op : BitVec 6) (a b c : Reg) (n : BitVec 11) :
    encodeCustom op a b c n &&& 0x3F#32 = op.setWidth 32 := by
  rw [and_opMask, opField_encodeCustom]

/-- The encoding of the instruction, cut to the mask of its row, is the row's match. -/
def Statement (i : Instr) : Prop := encode i &&& (tableRow i).1 = (tableRow i).2

theorem call (imm26 : BitVec 26) : Statement (.call imm26) :=
  opRow_encodeJType _ _

theorem jmpi (imm26 : BitVec 26) : Statement (.jmpi imm26) :=
  opRow_encodeJType _ _

theorem ldbu (rB rA : Reg) (imm16 : BitVec 16) : Statement (.ldbu rB rA imm16) :=
  opRow_encodeIType _ _ _ _

theorem addi (rB rA : Reg) (imm16 : BitVec 16) : Statement (.addi rB rA imm16) :=
  opRow_encodeIType _ _ _ _

theorem stb (rB rA : Reg) (imm16 : BitVec 16) : Statement (.stb rB rA imm16) :=
  opRow_encodeIType _ _ _ _

theorem br (imm16 : BitVec 16) : Statement (.br imm16) :=
  opRow_encodeIType _ _ _ _

theorem ldb (rB rA : Reg) (imm16 : BitVec 16) : Statement (.ldb rB rA imm16) :=
  opRow_encodeIType _ _ _ _

theorem cmpgei (rB rA : Reg) (imm16 : BitVec 16) : Statement (.cmpgei rB rA imm16) :=
  opRow_encodeIType _ _ _ _

theorem ldhu (rB rA : Reg) (imm16 : BitVec 16) : Statement (.ldhu rB rA imm16) :=
  opRow_encodeIType _ _ _ _

theorem andi (rB rA : Reg) (imm16 : BitVec 16) : Statement (.andi rB rA imm16) :=
  opRow_encodeIType _ _ _ _

theorem sth (rB rA : Reg) (imm16 : BitVec 16) : Statement (.sth rB rA imm16) :=
  opRow_encodeIType _ _ _ _

theorem bge (rA rB : Reg) (imm16 : BitVec 16) : Statement (.bge rA rB imm16) :=
  opRow_encodeIType _ _ _ _

theorem ldh (rB rA : Reg) (imm16 : BitVec 16) : Statement (.ldh rB rA imm16) :=
  opRow_encodeIType _ _ _ _

theorem cmplti (rB rA : Reg) (imm16 : BitVec 16) : Statement (.cmplti rB rA imm16) :=
  opRow_encodeIType _ _ _ _

theorem initda (rA : Reg) (imm16 : BitVec 16) : Statement (.initda rA imm16) :=
  opRow_encodeIType _ _ _ _

theorem ori (rB rA : Reg) (imm16 : BitVec 16) : Statement (.ori rB rA imm16) :=
  opRow_encodeIType _ _ _ _

theorem stw (rB rA : Reg) (imm16 : BitVec 16) : Statement (.stw rB rA imm16) :=
  opRow_encodeIType _ _ _ _

theorem blt (rA rB : Reg) (imm16 : BitVec 16) : Statement (.blt rA rB imm16) :=
  opRow_encodeIType _ _ _ _

theorem ldw (rB rA : Reg) (imm16 : BitVec 16) : Statement (.ldw rB rA imm16) :=
  opRow_encodeIType _ _ _ _

theorem cmpnei (rB rA : Reg) (imm16 : BitVec 16) : Statement (.cmpnei rB rA imm16) :=
  opRow_encodeIType _ _ _ _

theorem flushda (rA : Reg) (imm16 : BitVec 16) : Statement (.flushda rA imm16) :=
  opRow_encodeIType _ _ _ _

theorem xori (rB rA : Reg) (imm16 : BitVec 16) : Statement (.xori rB rA imm16) :=
  opRow_encodeIType _ _ _ _

theorem bne (rA rB : Reg) (imm16 : BitVec 16) : Statement (.bne rA rB imm16) :=
  opRow_encodeIType _ _ _ _

theorem cmpeqi (rB rA : Reg) (imm16 : BitVec 16) : Statement (.cmpeqi rB rA imm16) :=
  opRow_encodeIType _ _ _ _

theorem ldbuio (rB rA : Reg) (imm16 : BitVec 16) : Statement (.ldbuio rB rA imm16) :=
  opRow_encodeIType _ _ _ _

theorem muli (rB rA : Reg) (imm16 : BitVec 16) : Statement (.muli rB rA imm16) :=
  opRow_encodeIType _ _ _ _

theorem stbio (rB rA : Reg) (imm16 : BitVec 16) : Statement (.stbio rB rA imm16) :=
  opRow_encodeIType _ _ _ _

theorem beq (rA rB : Reg) (imm16 : BitVec 16) : Statement (.beq rA rB imm16) :=
  opRow_encodeIType _ _ _ _

theorem ldbio (rB rA : Reg) (imm16 : BitVec 16) : Statement (.ldbio rB rA imm16) :=
  opRow_encodeIType _ _ _ _

theorem cmpgeui (rB rA : Reg) (imm16 : BitVec 16) : Statement (.cmpgeui rB rA imm16) :=
  opRow_encodeIType _ _ _ _

theorem ldhuio (rB rA : Reg) (imm16 : BitVec 16) : Statement (.ldhuio rB rA imm16) :=
  opRow_encodeIType _ _ _ _

theorem andhi (rB rA : Reg) (imm16 : BitVec 16) : Statement (.andhi rB rA imm16) :=
  opRow_encodeIType _ _ _ _

theorem sthio (rB rA : Reg) (imm16 : BitVec 16) : Statement (.sthio rB rA imm16) :=
  opRow_encodeIType _ _ _ _

theorem bgeu (rA rB : Reg) (imm16 : BitVec 16) : Statement (.bgeu rA rB imm16) :=
  opRow_encodeIType _ _ _ _

theorem ldhio (rB rA : Reg) (imm16 : BitVec 16) : Statement (.ldhio rB rA imm16) :=
  opRow_encodeIType _ _ _ _

theorem cmpltui (rB rA : Reg) (imm16 : BitVec 16) : Statement (.cmpltui rB rA imm16) :=
  opRow_encodeIType _ _ _ _

theorem custom (n : BitVec 11) (rC rA rB : Reg) : Statement (.custom n rC rA rB) :=
  opRow_encodeCustom _ _ _ _ _

theorem initd (rA : Reg) (imm16 : BitVec 16) : Statement (.initd rA imm16) :=
  opRow_encodeIType _ _ _ _

theorem orhi (rB rA : Reg) (imm16 : BitVec 16) : Statement (.orhi rB rA imm16) :=
  opRow_encodeIType _ _ _ _

theorem stwio (rB rA : Reg) (imm16 : BitVec 16) : Statement (.stwio rB rA imm16) :=
  opRow_encodeIType _ _ _ _

theorem bltu (rA rB : Reg) (imm16 : BitVec 16) : Statement (.bltu rA rB imm16) :=
  opRow_encodeIType _ _ _ _

theorem ldwio (rB rA : Reg) (imm16 : BitVec 16) : Statement (.ldwio rB rA imm16) :=
  opRow_encodeIType _ _ _ _

theorem rdprs (rB rA : Reg) (imm16 : BitVec 16) : Statement (.rdprs rB rA imm16) :=
  opRow_encodeIType _ _ _ _

theorem flushd (rA : Reg) (imm16 : BitVec 16) : Statement (.flushd rA imm16) :=
  opRow_encodeIType _ _ _ _

theorem xorhi (rB rA : Reg) (imm16 : BitVec 16) : Statement (.xorhi rB rA imm16) :=
  opRow_encodeIType _ _ _ _

theorem eret : Statement (.eret) :=
  opxRow _ _ _ _ _

theorem roli (rC rA : Reg) (imm5 : BitVec 5) : Statement (.roli rC rA imm5) :=
  opxRow _ _ _ _ _

theorem rol (rC rA rB : Reg) : Statement (.rol rC rA rB) :=
  opxRow _ _ _ _ _

theorem flushp : Statement (.flushp) :=
  opxRow _ _ _ _ _

theorem ret : Statement (.ret) :=
  opxRow _ _ _ _ _

theorem nor (rC rA rB : Reg) : Statement (.nor rC rA rB) :=
  opxRow _ _ _ _ _

theorem mulxuu (rC rA rB : Reg) : Statement (.mulxuu rC rA rB) :=
  opxRow _ _ _ _ _

theorem cmpge (rC rA rB : Reg) : Statement (.cmpge rC rA rB) :=
  opxRow _ _ _ _ _

theorem bret : Statement (.bret) :=
  opxRow _ _ _ _ _

theorem ror (rC rA rB : Reg) : Statement (.ror rC rA rB) :=
  opxRow _ _ _ _ _

theorem flushi (rA : Reg) : Statement (.flushi rA) :=
  opxRow _ _ _ _ _

theorem jmp (rA : Reg) : Statement (.jmp rA) :=
  opxRow _ _ _ _ _

theorem and (rC rA rB : Reg) : Statement (.and rC rA rB) :=
  opxRow _ _ _ _ _

theorem cmplt (rC rA rB : Reg) : Statement (.cmplt rC rA rB) :=
  opxRow _ _ _ _ _

theorem slli (rC rA : Reg) (imm5 : BitVec 5) : Statement (.slli rC rA imm5) :=
  opxRow _ _ _ _ _

theorem sll (rC rA rB : Reg) : Statement (.sll rC rA rB) :=
  opxRow _ _ _ _ _

theorem wrprs (rC rA : Reg) : Statement (.wrprs rC rA) :=
  opxRow _ _ _ _ _

theorem or (rC rA rB : Reg) : Statement (.or rC rA rB) :=
  opxRow _ _ _ _ _

theorem mulxsu (rC rA rB : Reg) : Statement (.mulxsu rC rA rB) :=
  opxRow _ _ _ _ _

theorem cmpne (rC rA rB : Reg) : Statement (.cmpne rC rA rB) :=
  opxRow _ _ _ _ _

theorem srli (rC rA : Reg) (imm5 : BitVec 5) : Statement (.srli rC rA imm5) :=
  opxRow _ _ _ _ _

theorem srl (rC rA rB : Reg) : Statement (.srl rC rA rB) :=
  opxRow _ _ _ _ _

theorem nextpc (rC : Reg) : Statement (.nextpc rC) :=
  opxRow _ _ _ _ _

theorem callr (rA : Reg) : Statement (.callr rA) :=
  opxRow _ _ _ _ _

theorem xor (rC rA rB : Reg) : Statement (.xor rC rA rB) :=
  opxRow _ _ _ _ _

theorem mulxss (rC rA rB : Reg) : Statement (.mulxss rC rA rB) :=
  opxRow _ _ _ _ _

theorem cmpeq (rC rA rB : Reg) : Statement (.cmpeq rC rA rB) :=
  opxRow _ _ _ _ _

theorem divu (rC rA rB : Reg) : Statement (.divu rC rA rB) :=
  opxRow _ _ _ _ _

theorem div (rC rA rB : Reg) : Statement (.div rC rA rB) :=
  opxRow _ _ _ _ _

theorem rdctl (rC : Reg) (n : CtlReg) : Statement (.rdctl rC n) :=
  opxRow _ _ _ _ _

theorem mul (rC rA rB : Reg) : Statement (.mul rC rA rB) :=
  opxRow _ _ _ _ _

theorem cmpgeu (rC rA rB : Reg) : Statement (.cmpgeu rC rA rB) :=
  opxRow _ _ _ _ _

theorem initi (rA : Reg) : Statement (.initi rA) :=
  opxRow _ _ _ _ _

theorem trap : Statement (.trap) :=
  opxRow _ _ _ _ _

theorem wrctl (n : CtlReg) (rA : Reg) : Statement (.wrctl n rA) :=
  opxRow _ _ _ _ _

theorem cmpltu (rC rA rB : Reg) : Statement (.cmpltu rC rA rB) :=
  opxRow _ _ _ _ _

theorem add (rC rA rB : Reg) : Statement (.add rC rA rB) :=
  opxRow _ _ _ _ _

theorem brk : Statement (.brk) :=
  opxRow _ _ _ _ _

theorem sync : Statement (.sync) :=
  opxRow _ _ _ _ _

theorem sub (rC rA rB : Reg) : Statement (.sub rC rA rB) :=
  opxRow _ _ _ _ _

theorem srai (rC rA : Reg) (imm5 : BitVec 5) : Statement (.srai rC rA imm5) :=
  opxRow _ _ _ _ _

theorem sra (rC rA rB : Reg) : Statement (.sra rC rA rB) :=
  opxRow _ _ _ _ _

end Sys2Proof.Laws.EncodingRow
end

