-- ==== Sys2Proof/Laws/Step.lean ====
section
/-! SUPPORT. What a fetch and a Step can do: every way a Step can answer a next state
(60_exceptions.md R310, R311, R317). -/

namespace Sys2Proof.Machine

/-! ## The fetch (20_memory.md R72) -/

/-- The trace record of a fetch. -/
def fetchEvents (s : State) : List Event :=
  if s.cfg.traceEnabled then [.trace .fetch s.pc] else []

/-- Everything a fetch can do when it completes: nothing is mapped at `pc` and the word is 0, the
word is read from RAM, or a device register is read. -/
theorem fetchWord_ok {s t : State} {iw : Word} (h : s.fetchWord = .ok (iw, t)) :
    (s.resolve s.pc = none ∧ iw = 0#32 ∧ t = s.emit (fetchEvents s)) ∨
    (s.isRam s.pc = true ∧ iw = s.mem.readSize s.pc .word ∧ t = s.emit (fetchEvents s)) ∨
    ∃ k r, s.resolve s.pc = some (k, r) ∧ r.dev ≠ .ram ∧
      iw = (r.dev.readReg (r.offset s.pc)).1 ∧
      t = (s.emit (fetchEvents s)).applyDevice k r (r.dev.readReg (r.offset s.pc)).2 := by
  have he : s.traceAccess .fetch s.pc false = s.emit (fetchEvents s) := by
    rw [traceAccess_eq]; simp [fetchEvents]
  unfold State.fetchWord at h
  split at h
  · cases h
  · unfold State.busRead at h
    simp only [↓reduceIte, traceAccess_resolve] at h
    cases hr : s.resolve s.pc with
    | none =>
      simp only [hr] at h
      injection h with h
      obtain ⟨rfl, rfl⟩ := Prod.mk.inj h
      exact .inl ⟨rfl, rfl, he⟩
    | some x =>
      obtain ⟨k, r⟩ := x
      simp only [hr] at h
      unfold State.regionRead at h
      split at h
      · next hd =>
        injection h with h
        obtain ⟨rfl, rfl⟩ := Prod.mk.inj h
        exact .inr (.inl ⟨isRam_iff.2 ⟨k, r, hr, hd⟩, by rw [traceAccess_mem], he⟩)
      · next hd =>
        split at h
        · injection h with h
          obtain ⟨rfl, rfl⟩ := Prod.mk.inj h
          exact .inr (.inr ⟨k, r, rfl, hd, rfl, by rw [he]⟩)
        · cases h

/-- A fetch from RAM reads the word at `pc` and leaves only its trace record. -/
theorem fetchWord_ram {s : State} (h : s.isRam s.pc = true) :
    s.fetchWord = .ok (s.mem.readSize s.pc .word, s.emit (fetchEvents s)) := by
  have he : s.traceAccess .fetch s.pc false = s.emit (fetchEvents s) := by
    rw [traceAccess_eq]; simp [fetchEvents]
  obtain ⟨k, r, hr, hd⟩ := isRam_iff.1 h
  simp only [State.fetchWord, h, State.busRead, ↓reduceIte, traceAccess_resolve, hr,
    State.regionRead, hd, traceAccess_mem]
  simp [he]

/-- What a fetch leaves of the bus: at most one device read. -/
theorem fetchWord_busEffect {s t : State} {iw : Word} (h : s.fetchWord = .ok (iw, t)) :
    BusEffect s t := by
  obtain ⟨-, -, rfl⟩ | ⟨-, -, rfl⟩ | ⟨k, r, hr, -, -, rfl⟩ := fetchWord_ok h
  · exact .inl ⟨rfl, rfl⟩
  · exact .inl ⟨rfl, rfl⟩
  · exact .inr ⟨k, r, _, (resolve_some hr).1, .inl ⟨_, rfl⟩, rfl, rfl⟩

/-! ## The tick (60_exceptions.md R311) -/

/-- Every way a tick can answer a next state: the interrupt, an unmapped `pc`, a halt, a misaligned
`pc`, or an instruction performed on the state that the fetch left, with `pc` moved on by 4. -/
inductive TickResult (s : State) : State → Prop where
  | interrupt (run : s.runState = .run) (ready : s.interruptReady = true) :
      TickResult s (s.enterTick.takeException s.pc)
  | unmapped (calm : ¬ (s.runState = .run ∧ s.interruptReady = true))
      (invalid : s.addressValid s.pc = false) :
      TickResult s (s.enterTick.raiseFatal ⟨.invalidAddress, s.pc, .word, .fetch, none⟩)
  | halt (run : s.runState = .run) (calm : s.interruptReady = false)
      (valid : s.addressValid s.pc = true) (due : s.shouldHalt s.pc = true) :
      TickResult s s.enterTick.halt
  | misaligned (calm : ¬ (s.runState = .run ∧ s.interruptReady = true))
      (valid : s.addressValid s.pc = true) (notDue : ¬ (s.runState = .run ∧ s.shouldHalt s.pc = true))
      (odd : s.pc.toNat % 4 ≠ 0) :
      TickResult s (s.enterTick.raiseFatal ⟨.misalignedAccess, s.pc, .word, .fetch, none⟩)
  | executed {iw : Word} {f u : State} (calm : ¬ (s.runState = .run ∧ s.interruptReady = true))
      (valid : s.addressValid s.pc = true) (notDue : ¬ (s.runState = .run ∧ s.shouldHalt s.pc = true))
      (even : s.pc.toNat % 4 = 0) (fetch : s.enterTick.fetchWord = .ok (iw, f))
      (done : executeWord (f.setPc (f.pc + 4#32)) iw = .next u) : TickResult s u

theorem cpuTick_next {s u : State} (h : cpuTick s = .next u) : TickResult s u := by
  unfold cpuTick at h
  split at h
  · next hi => injection h with h; subst h; exact .interrupt hi.1 hi.2
  · next hi =>
    split at h
    · next hv => injection h with h; subst h; exact .unmapped hi hv
    · next hv =>
      have hv : s.addressValid s.pc = true := by simpa using hv
      split at h
      · next hh =>
        injection h with h; subst h
        exact .halt hh.1 (by simpa [hh.1] using hi) hv hh.2
      · next hh =>
        unfold fetchAndExecute at h
        split at h
        · next hp =>
          injection h with h; subst h
          exact .misaligned hi hv hh fun e => hp (extract_two_eq_zero.2 e)
        · next hp =>
          have hp := extract_two_eq_zero.1 (not_not.1 hp)
          split at h
          · cases h
          · next hf => exact .executed hi hv hh hp hf h

/-! ## The Step (60_exceptions.md R310) -/

/-- Every way a Step can answer a next state: nothing moves, or a tick ran and the Step was
finished. -/
theorem step_next {s t : State} (h : step s = .next t) :
    s.configOk = true ∧
      (s.idle = true ∧ t = s ∨ s.idle = false ∧ ∃ u, TickResult s u ∧ t = finishStep u) := by
  unfold step stepMachine at h
  split at h
  · cases h
  · next hc =>
    refine ⟨by simpa using hc, ?_⟩
    split at h
    · next hi => injection h with h; exact .inl ⟨hi, h.symm⟩
    · next hi =>
      refine .inr ⟨by simpa using hi, ?_⟩
      split at h
      · next u hu => injection h with h; exact ⟨u, cpuTick_next hu, h.symm⟩
      · cases h
      · cases h

/-- A Step of a well-formed machine that is not stopped is its tick, finished. -/
theorem step_of_tick {s : State} (hc : s.configOk = true) (hi : s.idle = false) :
    step s = match cpuTick s with
      | .next u => .next (finishStep u)
      | .fault f => .fault f
      | .refused r => .refused r := by
  cases hu : cpuTick s <;> simp [step, stepMachine, hc, hi, hu]

/-- A machine with no fatal error that is not halted is not idle. -/
theorem idle_false {s : State} (hf : s.fatal = none) (hr : s.runState ≠ .halted) :
    s.idle = false := by simp [State.idle, hf, hr]

/-- An unrecognized word takes the exception, a recognized one is its instruction (R311). -/
theorem executeWord_ok {s : State} {iw : Word} {i : Instr} (h : decodeWord iw = .ok i) :
    executeWord s iw = exec i s := by simp [executeWord, h]

theorem executeWord_error {s : State} {iw : Word} {e : DecodeError} (h : decodeWord iw = .error e) :
    executeWord s iw = .next (s.takeException s.ipc) := by simp [executeWord, h]

/-- What performing a word can do outside its results. -/
theorem executeWord_effect {s t : State} {iw : Word} (h : executeWord s iw = .next t) :
    ExecEffect s t := by
  cases hd : decodeWord iw with
  | ok i => rw [executeWord_ok hd] at h; exact exec_effect h
  | error e => rw [executeWord_error hd] at h; exact effect_next h (effect_takeException _ _)

end Sys2Proof.Machine
end

