-- ==== Sys2Proof/Tests/Slice0.lean ====
section
/-! SUPPORT. Tests of the model against 95_test_vectors.md (every expected value is that file's), one
Step each, the checks of WellFormed on ill-formed configurations, and for each statement with
hypotheses a witness that meets them. -/

namespace Sys2Proof.Tests
open Sys2Proof.Machine

/-- The board of `State.reset` with the trace on, and the two words of 95_test_vectors.md 3.8 at
0x1000. -/
def start : State :=
  { State.reset with
    cfg := { exampleConfig with traceEnabled := true }
    mem := (Memory.writeSize [] 0x1000#32 0x89ABCDEF#32 .word).writeSize 0x1004#32 0x00FF7F80#32
      .word
    out := [] }

/-- The same board with the architectural choice for the four open instructions. -/
def archStart : State :=
  { start with cfg := { start.cfg with
      unlisted := ⟨.architectural, .architectural, .architectural, .architectural⟩ } }

/-- `s` with this pending word. -/
def withIrq (s : State) (v : Word) : State := { s with irq := v }

/-- The state an outcome goes on in. -/
def next? (o : StepOutcome) : Option State :=
  match o with
  | .next t => some t
  | .fault _ => none
  | .refused _ => none

/-- The name an outcome is refused under. -/
def refusalOf (o : StepOutcome) : Option Refusal :=
  match o with
  | .next _ => none
  | .fault _ => none
  | .refused r => some r

/-- What `f` reads in the state that one Step leaves, with the word `w` stored where it fetches. -/
def after {α : Type} (s : State) (w : Nat) (f : State → α) : Option α :=
  (next? (step (s.withFetchWord 32 w))).map f

/-- A word of RAM. -/
def wordAt (t : State) (a : Word) : Word := t.mem.readSize a .word

/-! ## Decoding: every constructor's word, written out in 95_test_vectors.md Part 2 -/

theorem test_decode_logic :
    List.map decodeWord
      [0x10C8703A#32, 0x10C8B03A#32, 0x10C8F03A#32, 0x10C8303A#32, 0x10FFC00C#32, 0x10E00054#32,
        0x10FFFFDC#32, 0x10FFC02C#32, 0x00C48D34#32, 0x10E0003C#32] =
     [.ok (.and 4 2 3), .ok (.or 4 2 3), .ok (.xor 4 2 3), .ok (.nor 4 2 3),
      .ok (.andi 3 2 0xFF00#16), .ok (.ori 3 2 0x8001#16), .ok (.xori 3 2 0xFFFF#16),
      .ok (.andhi 3 2 0xFF00#16), .ok (.orhi 3 0 0x1234#16), .ok (.xorhi 3 2 0x8000#16)] := by
  decide

theorem test_decode_arithmetic :
    List.map decodeWord
      [0x10C9883A#32, 0x10FFFFC4#32, 0x10C9C83A#32, 0x10C9383A#32, 0x10C8F83A#32, 0x10C8B83A#32,
        0x10C8383A#32, 0x10C9283A#32, 0x10C9203A#32] =
     [.ok (.add 4 2 3), .ok (.addi 3 2 0xFFFF#16), .ok (.sub 4 2 3), .ok (.mul 4 2 3),
      .ok (.mulxss 4 2 3), .ok (.mulxsu 4 2 3), .ok (.mulxuu 4 2 3), .ok (.div 4 2 3),
      .ok (.divu 4 2 3)] := by
  decide

theorem test_decode_compare :
    List.map decodeWord
      [0x10C9003A#32, 0x10C8C03A#32, 0x10C8403A#32, 0x10C9403A#32, 0x10C8803A#32, 0x10C9803A#32,
        0x10FFFFE0#32, 0x10C00158#32, 0x10FFFFC8#32, 0x10FFFFE8#32, 0x10FFFFD0#32, 0x10FFFFF0#32] =
     [.ok (.cmpeq 4 2 3), .ok (.cmpne 4 2 3), .ok (.cmpge 4 2 3), .ok (.cmpgeu 4 2 3),
      .ok (.cmplt 4 2 3), .ok (.cmpltu 4 2 3), .ok (.cmpeqi 3 2 0xFFFF#16),
      .ok (.cmpnei 3 2 0x0005#16), .ok (.cmpgei 3 2 0xFFFF#16), .ok (.cmpgeui 3 2 0xFFFF#16),
      .ok (.cmplti 3 2 0xFFFF#16), .ok (.cmpltui 3 2 0xFFFF#16)] := by
  decide

theorem test_decode_shift :
    List.map decodeWord
      [0x10C8183A#32, 0x1008123A#32, 0x10C8583A#32, 0x10C8983A#32, 0x1008913A#32, 0x10C8D83A#32,
        0x1008D13A#32, 0x10C9D83A#32, 0x1009D13A#32] =
     [.ok (.rol 4 2 3), .ok (.roli 4 2 8#5), .ok (.ror 4 2 3), .ok (.sll 4 2 3),
      .ok (.slli 4 2 4#5), .ok (.srl 4 2 3), .ok (.srli 4 2 4#5), .ok (.sra 4 2 3),
      .ok (.srai 4 2 4#5)] := by
  decide

theorem test_decode_control :
    List.map decodeWord
      [0x2800683A#32, 0x00010001#32, 0x00000206#32, 0x00020000#32, 0x283EE83A#32, 0x10C00326#32,
        0x10FFFE1E#32, 0x10C0010E#32, 0x10C0012E#32, 0x10C00116#32, 0x10C00136#32, 0xF800283A#32,
        0xEF80083A#32, 0xF03C483A#32] =
     [.ok (.jmp 5), .ok (.jmpi 0x400#26), .ok (.br 0x0008#16), .ok (.call 0x800#26),
      .ok (.callr 5), .ok (.beq 2 3 0x000C#16), .ok (.bne 2 3 0xFFF8#16),
      .ok (.bge 2 3 0x0004#16), .ok (.bgeu 2 3 0x0004#16), .ok (.blt 2 3 0x0004#16),
      .ok (.bltu 2 3 0x0004#16), .ok .ret, .ok .eret, .ok .bret] := by
  decide

theorem test_decode_system :
    List.map decodeWord
      [0x0005313A#32, 0x100170FA#32, 0x0001B03A#32, 0x0000203A#32, 0x1000603A#32, 0x1000003B#32,
        0x1000001B#32, 0x1001483A#32, 0x10000033#32, 0x10000013#32, 0x10C9C032#32, 0x10C00038#32,
        0x1008A03A#32, 0x10FFFF64#32, 0x0004E03A#32, 0x003B683A#32, 0x003DA03A#32] =
     [.ok (.rdctl 2 4), .ok (.wrctl 3 2), .ok .sync, .ok .flushp, .ok (.flushi 2),
      .ok (.flushd 2 0x0000#16), .ok (.flushda 2 0x0000#16), .ok (.initi 2),
      .ok (.initd 2 0x0000#16), .ok (.initda 2 0x0000#16), .ok (.custom 0x700#11 4 2 3),
      .ok (.rdprs 3 2 0x0000#16), .ok (.wrprs 4 2), .ok (.muli 3 2 0xFFFD#16), .ok (.nextpc 2),
      .ok .trap, .ok .brk] := by
  decide

theorem test_decode_memory :
    List.map decodeWord
      [0x10FFFFC7#32, 0x10C00003#32, 0x10C0008F#32, 0x10C0008B#32, 0x10C00117#32, 0x10C00027#32,
        0x10C00023#32, 0x10C0002F#32, 0x10C0002B#32, 0x10C00037#32, 0x10C00045#32, 0x10C0008D#32,
        0x10C00115#32, 0x10C00025#32, 0x10C0002D#32, 0x10C00035#32] =
     [.ok (.ldb 3 2 0xFFFF#16), .ok (.ldbu 3 2 0x0000#16), .ok (.ldh 3 2 0x0002#16),
      .ok (.ldhu 3 2 0x0002#16), .ok (.ldw 3 2 0x0004#16), .ok (.ldbio 3 2 0x0000#16),
      .ok (.ldbuio 3 2 0x0000#16), .ok (.ldhio 3 2 0x0000#16), .ok (.ldhuio 3 2 0x0000#16),
      .ok (.ldwio 3 2 0x0000#16), .ok (.stb 3 2 0x0001#16), .ok (.sth 3 2 0x0002#16),
      .ok (.stw 3 2 0x0004#16), .ok (.stbio 3 2 0x0000#16), .ok (.sthio 3 2 0x0000#16),
      .ok (.stwio 3 2 0x0000#16)] := by
  decide

/-! ## One instruction, one Step (95_test_vectors.md 3.1 to 3.8) -/

/-! ### One step: logic -/

theorem test_and :
    after ((start.setReg 2 0xFF00FF00#32).setReg 3 0x0FF00FF0#32) 0x10C8703A
      (fun t => (t.getReg 4, t.pc)) = some (0x0F000F00#32, 0x00000104#32) := by decide

theorem test_or :
    after ((start.setReg 2 0xFF00FF00#32).setReg 3 0x0FF00FF0#32) 0x10C8B03A
      (fun t => (t.getReg 4, t.pc)) = some (0xFFF0FFF0#32, 0x00000104#32) := by decide

theorem test_xor :
    after ((start.setReg 2 0xFF00FF00#32).setReg 3 0x0FF00FF0#32) 0x10C8F03A
      (fun t => (t.getReg 4, t.pc)) = some (0xF0F0F0F0#32, 0x00000104#32) := by decide

theorem test_nor :
    after start 0x0008303A (fun t => (t.getReg 4, t.pc)) = some (0xFFFFFFFF#32, 0x00000104#32)
      := by decide

theorem test_andi :
    after (start.setReg 2 0x12345678#32) 0x10FFC00C (fun t => (t.getReg 3, t.pc)) =
      some (0x00005600#32, 0x00000104#32) := by decide

theorem test_ori :
    after (start.setReg 2 0x12340000#32) 0x10E00054 (fun t => (t.getReg 3, t.pc)) =
      some (0x12348001#32, 0x00000104#32) := by decide

theorem test_xori :
    after (start.setReg 2 0x12345678#32) 0x10FFFFDC (fun t => (t.getReg 3, t.pc)) =
      some (0x1234A987#32, 0x00000104#32) := by decide

theorem test_andhi :
    after (start.setReg 2 0x12345678#32) 0x10FFC02C (fun t => (t.getReg 3, t.pc)) =
      some (0x12000000#32, 0x00000104#32) := by decide

theorem test_orhi :
    after (start.setReg 2 0x00005678#32) 0x10FFFFF4 (fun t => (t.getReg 3, t.pc)) =
      some (0xFFFF5678#32, 0x00000104#32) := by decide

theorem test_xorhi :
    after (start.setReg 2 0x12345678#32) 0x10E0003C (fun t => (t.getReg 3, t.pc)) =
      some (0x92345678#32, 0x00000104#32) := by decide

/-! ### One step: arithmetic -/

theorem test_add :
    after ((start.setReg 2 0xFFFFFFFF#32).setReg 3 0x00000002#32) 0x10C9883A
      (fun t => (t.getReg 4, t.pc)) = some (0x00000001#32, 0x00000104#32) := by decide

theorem test_addi :
    after (start.setReg 2 0x00000000#32) 0x10FFFFC4 (fun t => (t.getReg 3, t.pc)) =
      some (0xFFFFFFFF#32, 0x00000104#32) := by decide

theorem test_sub :
    after ((start.setReg 2 0x00000005#32).setReg 3 0x00000007#32) 0x10C9C83A
      (fun t => (t.getReg 4, t.pc)) = some (0xFFFFFFFE#32, 0x00000104#32) := by decide

theorem test_mul_1 :
    after (((start.setReg 2 0xFFFFFFF9#32).setReg 3 0x00000002#32).setReg 4 0x55555555#32)
      0x10C9383A (fun t => (t.getReg 4, t.pc)) = some (0xFFFFFFF2#32, 0x104#32) := by decide

theorem test_mul_2 :
    after (((start.setReg 2 0x12345678#32).setReg 3 0x9ABCDEF0#32).setReg 4 0x55555555#32)
      0x10C9383A (fun t => (t.getReg 4, t.pc)) = some (0x242D2080#32, 0x104#32) := by decide

theorem test_mulxss_1 :
    after (((start.setReg 2 0xFFFFFFF9#32).setReg 3 0x00000002#32).setReg 4 0x55555555#32)
      0x10C8F83A (fun t => (t.getReg 4, t.pc)) = some (0xFFFFFFFF#32, 0x104#32) := by decide

theorem test_mulxss_2 :
    after (((start.setReg 2 0x80000000#32).setReg 3 0x80000000#32).setReg 4 0x55555555#32)
      0x10C8F83A (fun t => (t.getReg 4, t.pc)) = some (0x40000000#32, 0x104#32) := by decide

theorem test_mulxsu_1 :
    after (((start.setReg 2 0x00000007#32).setReg 3 0xFFFFFFFE#32).setReg 4 0x55555555#32)
      0x10C8B83A (fun t => (t.getReg 4, t.pc)) = some (0x00000006#32, 0x104#32) := by decide

theorem test_mulxsu_2 :
    after (((start.setReg 2 0xFFFFFFF9#32).setReg 3 0xFFFFFFFE#32).setReg 4 0x55555555#32)
      0x10C8B83A (fun t => (t.getReg 4, t.pc)) = some (0xFFFFFFF9#32, 0x104#32) := by decide

theorem test_mulxuu :
    after (((start.setReg 2 0xFFFFFFF9#32).setReg 3 0xFFFFFFFE#32).setReg 4 0x55555555#32)
      0x10C8383A (fun t => (t.getReg 4, t.pc)) = some (0xFFFFFFF7#32, 0x104#32) := by decide

theorem test_div_1 :
    after (((start.setReg 2 0xFFFFFFF9#32).setReg 3 0x00000002#32).setReg 4 0x55555555#32)
      0x10C9283A (fun t => (t.getReg 4, t.pc)) = some (0xFFFFFFFD#32, 0x104#32) := by decide

theorem test_div_2 :
    after (((start.setReg 2 0x00000005#32).setReg 3 0x00000000#32).setReg 4 0x55555555#32)
      0x10C9283A (fun t => (t.getReg 4, t.pc)) = some (0x55555555#32, 0x104#32) := by decide

theorem test_divu_1 :
    after (((start.setReg 2 0xFFFFFFF9#32).setReg 3 0x00000002#32).setReg 4 0x55555555#32)
      0x10C9203A (fun t => (t.getReg 4, t.pc)) = some (0x7FFFFFFC#32, 0x104#32) := by decide

theorem test_divu_2 :
    after (((start.setReg 2 0x00000000#32).setReg 3 0x00000000#32).setReg 4 0x55555555#32)
      0x10C9203A (fun t => (t.getReg 4, t.pc)) = some (0x55555555#32, 0x104#32) := by decide

/-! ### One step: compare -/

theorem test_cmpeq :
    after ((start.setReg 2 0x00000005#32).setReg 3 0x00000005#32) 0x10C9003A
      (fun t => (t.getReg 4, t.pc)) = some (0x00000001#32, 0x00000104#32) := by decide

theorem test_cmpne :
    after (((start.setReg 2 0x00000005#32).setReg 3 0x00000005#32).setReg 4 0x00000007#32)
      0x10C8C03A (fun t => (t.getReg 4, t.pc)) = some (0x00000000#32, 0x00000104#32) := by decide

theorem test_cmpge :
    after (((start.setReg 2 0x80000000#32).setReg 3 0x7FFFFFFF#32).setReg 4 0x00000007#32)
      0x10C8403A (fun t => (t.getReg 4, t.pc)) = some (0x00000000#32, 0x00000104#32) := by decide

theorem test_cmpgeu :
    after ((start.setReg 2 0xFFFFFFFF#32).setReg 3 0x00000001#32) 0x10C9403A
      (fun t => (t.getReg 4, t.pc)) = some (0x00000001#32, 0x00000104#32) := by decide

theorem test_cmplt :
    after ((start.setReg 2 0x80000000#32).setReg 3 0x7FFFFFFF#32) 0x10C8803A
      (fun t => (t.getReg 4, t.pc)) = some (0x00000001#32, 0x00000104#32) := by decide

theorem test_cmpltu :
    after (((start.setReg 2 0xFFFFFFFF#32).setReg 3 0x00000001#32).setReg 4 0x00000007#32)
      0x10C9803A (fun t => (t.getReg 4, t.pc)) = some (0x00000000#32, 0x00000104#32) := by decide

theorem test_cmpeqi :
    after ((start.setReg 2 0x0000FFFF#32).setReg 3 0x00000007#32) 0x10FFFFE0
      (fun t => (t.getReg 3, t.pc)) = some (0x00000000#32, 0x00000104#32) := by decide

theorem test_cmpnei :
    after ((start.setReg 2 0x00000005#32).setReg 3 0x00000007#32) 0x10C00158
      (fun t => (t.getReg 3, t.pc)) = some (0x00000000#32, 0x00000104#32) := by decide

theorem test_cmpgei :
    after ((start.setReg 2 0xFFFFFFFE#32).setReg 3 0x00000007#32) 0x10FFFFC8
      (fun t => (t.getReg 3, t.pc)) = some (0x00000000#32, 0x00000104#32) := by decide

theorem test_cmpgeui :
    after (start.setReg 2 0x00010000#32) 0x10FFFFE8 (fun t => (t.getReg 3, t.pc)) =
      some (0x00000001#32, 0x00000104#32) := by decide

theorem test_cmplti :
    after (start.setReg 2 0xFFFFFFFE#32) 0x10FFFFD0 (fun t => (t.getReg 3, t.pc)) =
      some (0x00000001#32, 0x00000104#32) := by decide

theorem test_cmpltui :
    after ((start.setReg 2 0xFFFFFFFF#32).setReg 3 0x00000007#32) 0x10FFFFF0
      (fun t => (t.getReg 3, t.pc)) = some (0x00000000#32, 0x00000104#32) := by decide

/-! ### One step: shift -/

theorem test_rol :
    after ((start.setReg 2 0x80000001#32).setReg 3 0x00000021#32) 0x10C8183A
      (fun t => (t.getReg 4, t.pc)) = some (0x00000003#32, 0x00000104#32) := by decide

theorem test_roli :
    after (start.setReg 2 0x12345678#32) 0x1008123A (fun t => (t.getReg 4, t.pc)) =
      some (0x34567812#32, 0x00000104#32) := by decide

theorem test_ror :
    after ((start.setReg 2 0x00000001#32).setReg 3 0xFFFFFFE1#32) 0x10C8583A
      (fun t => (t.getReg 4, t.pc)) = some (0x80000000#32, 0x00000104#32) := by decide

theorem test_sll :
    after ((start.setReg 2 0x80000001#32).setReg 3 0x00000020#32) 0x10C8983A
      (fun t => (t.getReg 4, t.pc)) = some (0x80000001#32, 0x00000104#32) := by decide

theorem test_slli :
    after (start.setReg 2 0x12345678#32) 0x1008913A (fun t => (t.getReg 4, t.pc)) =
      some (0x23456780#32, 0x00000104#32) := by decide

theorem test_srl :
    after ((start.setReg 2 0x80000000#32).setReg 3 0x00000100#32) 0x10C8D83A
      (fun t => (t.getReg 4, t.pc)) = some (0x80000000#32, 0x00000104#32) := by decide

theorem test_srli :
    after (start.setReg 2 0xFFFFFFFF#32) 0x1008D7FA (fun t => (t.getReg 4, t.pc)) =
      some (0x00000001#32, 0x00000104#32) := by decide

theorem test_sra :
    after ((start.setReg 2 0x80000000#32).setReg 3 0x00000004#32) 0x10C9D83A
      (fun t => (t.getReg 4, t.pc)) = some (0xF8000000#32, 0x00000104#32) := by decide

theorem test_srai :
    after (start.setReg 2 0x80000000#32) 0x1009D13A (fun t => (t.getReg 4, t.pc)) =
      some (0xF8000000#32, 0x00000104#32) := by decide

/-! ### One step: control -/

theorem test_jmp_1 :
    after (start.setReg 5 0x00001000#32) 0x2800683A (fun t => t.pc) = some 0x00001000#32
      := by decide

theorem test_jmp_2 :
    after ((start.setReg 5 0x00001002#32).setCtl 0 0x00000001#32) 0x2800683A
      (fun t => (t.getReg 29, t.getCtl 0, t.getCtl 1, t.pc)) =
      some (0x00000104#32, 0x00000000#32, 0x00000001#32, 0x00000020#32) := by decide

theorem test_jmpi :
    after start 0xFFFFFFC1 (fun t => t.pc) = some 0x0FFFFFFC#32 := by decide

theorem test_br_1 :
    after start 0x003FFF06 (fun t => t.pc) = some 0x00000100#32 := by decide

theorem test_br_2 :
    after (start.setCtl 0 0x00000001#32) 0x00000086
      (fun t => (t.getReg 29, t.getCtl 0, t.getCtl 1, t.pc)) =
      some (0x00000104#32, 0x00000000#32, 0x00000001#32, 0x00000020#32) := by decide

theorem test_call :
    after start 0x00020000 (fun t => (t.getReg 31, t.pc, t.callStackSize)) =
      some (0x00000104#32, 0x00002000#32, 1) := by decide

theorem test_callr_1 :
    after (((start.setReg 5 0x00003003#32).setReg 31 0x00000055#32).setCtl 0 0x00000001#32)
      0x283EE83A (fun t => (t.getReg 29, t.getReg 31, t.getCtl 0, t.getCtl 1, t.pc)) =
      some (0x00000104#32, 0x00000055#32, 0x00000000#32, 0x00000001#32, 0x00000020#32)
      := by decide

theorem test_callr_2 :
    after (start.setReg 31 0x00004000#32) 0xF83EE83A
      (fun t => (t.getReg 31, t.pc, t.callStackSize)) = some (0x00000104#32, 0x00004000#32, 1)
      := by decide

theorem test_beq_1 :
    after ((start.setReg 2 0x00000007#32).setReg 3 0x00000007#32) 0x10C00326 (fun t => t.pc) =
      some 0x00000110#32 := by decide

theorem test_beq_2 :
    after (((start.setReg 2 0x00000007#32).setReg 3 0x00000007#32).setCtl 0 0x00000001#32)
      0x10C001A6 (fun t => (t.getReg 29, t.getCtl 0, t.getCtl 1, t.pc)) =
      some (0x00000104#32, 0x00000000#32, 0x00000001#32, 0x00000020#32) := by decide

theorem test_bne_1 :
    after ((start.setReg 2 0x00000001#32).setReg 3 0x00000000#32) 0x10FFFE1E (fun t => t.pc) =
      some 0x000000FC#32 := by decide

theorem test_bne_2 :
    after ((start.setReg 2 0x00000001#32).setReg 3 0x00000001#32) 0x10FFFE1E (fun t => t.pc) =
      some 0x00000104#32 := by decide

theorem test_bge_1 :
    after ((start.setReg 2 0xFFFFFFFF#32).setReg 3 0x00000001#32) 0x10C0010E (fun t => t.pc) =
      some 0x00000104#32 := by decide

theorem test_bge_2 :
    after ((start.setReg 2 0x00000001#32).setReg 3 0x00000001#32) 0x10C0010E (fun t => t.pc) =
      some 0x00000108#32 := by decide

theorem test_bgeu_1 :
    after ((start.setReg 2 0xFFFFFFFF#32).setReg 3 0x00000001#32) 0x10C0012E (fun t => t.pc) =
      some 0x00000108#32 := by decide

theorem test_bgeu_2 :
    after ((start.setReg 2 0x00000000#32).setReg 3 0x00000001#32) 0x10C0012E (fun t => t.pc) =
      some 0x00000104#32 := by decide

theorem test_blt_1 :
    after ((start.setReg 2 0xFFFFFFFF#32).setReg 3 0x00000001#32) 0x10C00116 (fun t => t.pc) =
      some 0x00000108#32 := by decide

theorem test_blt_2 :
    after ((start.setReg 2 0x00000001#32).setReg 3 0x00000001#32) 0x10C00116 (fun t => t.pc) =
      some 0x00000104#32 := by decide

theorem test_bltu_1 :
    after ((start.setReg 2 0xFFFFFFFF#32).setReg 3 0x00000001#32) 0x10C00136 (fun t => t.pc) =
      some 0x00000104#32 := by decide

theorem test_bltu_2 :
    after ((start.setReg 2 0x00000000#32).setReg 3 0x00000001#32) 0x10C00136 (fun t => t.pc) =
      some 0x00000108#32 := by decide

theorem test_ret :
    after (start.setReg 31 0x00000106#32) 0xF800283A (fun t => (t.pc, t.callStackSize)) =
      some (0x00000106#32, -1) := by decide

theorem test_eret :
    after (((start.setReg 29 0x00000200#32).setCtl 0 0x00000001#32).setCtl 1 0xFFFFFFFE#32)
      0xEF80083A (fun t => (t.getCtl 0, t.pc)) = some (0xFFFFFFFE#32, 0x00000200#32) := by decide

theorem test_bret :
    after (((start.setReg 30 0x00000300#32).setCtl 0 0x00000001#32).setCtl 2 0x000000AA#32)
      0xF03C483A (fun t => t.pc) = some 0x00000104#32 := by decide

/-! ### One step: system -/

theorem test_rdctl :
    after (withIrq (start.setCtl 3 0x00000004#32) 0x00000005#32) 0x0005313A
      (fun t => (t.getReg 2, t.pc)) = some (0x00000004#32, 0x00000104#32) := by decide

theorem test_wrctl_1 :
    after (withIrq (start.setReg 2 0x00000003#32) 0x00000002#32) 0x100170FA
      (fun t => (t.getCtl 3, t.pc)) = some (0x00000003#32, 0x00000104#32) := by decide

theorem test_wrctl_2 :
    after (start.setReg 2 0xFFFFFFFF#32) 0x1001713A (fun t => t.pc) = some 0x00000104#32
      := by decide

theorem test_sync :
    after start 0x0001B03A (fun t => t.pc) = some 0x00000104#32 := by decide

theorem test_flushp :
    after start 0x0000203A (fun t => t.pc) = some 0x00000104#32 := by decide

theorem test_flushi :
    after (start.setReg 2 0xDEAD0001#32) 0x1000603A (fun t => t.pc) = some 0x00000104#32
      := by decide

theorem test_flushd :
    after (start.setReg 2 0xDEAD0001#32) 0x1000003B (fun t => t.pc) = some 0x00000104#32
      := by decide

theorem test_flushda :
    after (start.setReg 2 0xDEAD0001#32) 0x1000001B (fun t => t.pc) = some 0x00000104#32
      := by decide

theorem test_initi :
    after (start.setReg 2 0xDEAD0001#32) 0x1001483A (fun t => t.pc) = some 0x00000104#32
      := by decide

theorem test_initd :
    after (start.setReg 2 0xDEAD0001#32) 0x10000033 (fun t => t.pc) = some 0x00000104#32
      := by decide

theorem test_initda :
    after (start.setReg 2 0xDEAD0001#32) 0x10000013 (fun t => t.pc) = some 0x00000104#32
      := by decide

theorem test_custom :
    after (((start.setReg 2 0x00000001#32).setReg 3 0x00000002#32).setCtl 0 0x00000001#32)
      0x10C9C032 (fun t => (t.getReg 29, t.getCtl 0, t.getCtl 1, t.pc)) =
      some (0x00000104#32, 0x00000000#32, 0x00000001#32, 0x00000020#32) := by decide

theorem test_rdprs :
    after ((start.setReg 2 0x00000001#32).setCtl 0 0x00000001#32) 0x10C00038
      (fun t => (t.getReg 29, t.getCtl 0, t.getCtl 1, t.pc)) =
      some (0x00000104#32, 0x00000000#32, 0x00000001#32, 0x00000020#32) := by decide

theorem test_wrprs :
    after ((start.setReg 2 0x00000001#32).setCtl 0 0x00000001#32) 0x1008A03A
      (fun t => (t.getReg 29, t.getCtl 0, t.getCtl 1, t.pc)) =
      some (0x00000104#32, 0x00000000#32, 0x00000001#32, 0x00000020#32) := by decide

theorem test_muli_1 :
    after ((start.setReg 2 0x00000005#32).setCtl 0 0x00000001#32) 0x10FFFF64
      (fun t => (t.getReg 29, t.getCtl 0, t.getCtl 1, t.pc)) =
      some (0x00000104#32, 0x00000000#32, 0x00000001#32, 0x00000020#32) := by decide

theorem test_muli_2 :
    after (archStart.setReg 2 0x00000005#32) 0x10FFFF64 (fun t => (t.getReg 3, t.pc)) =
      some (0xFFFFFFF1#32, 0x00000104#32) := by decide

theorem test_nextpc_1 :
    after (start.setCtl 0 0x00000001#32) 0x0004E03A
      (fun t => (t.getReg 29, t.getCtl 0, t.getCtl 1, t.pc)) =
      some (0x00000104#32, 0x00000000#32, 0x00000001#32, 0x00000020#32) := by decide

theorem test_nextpc_2 :
    after archStart 0x0004E03A (fun t => (t.getReg 2, t.pc)) = some (0x00000104#32, 0x00000104#32)
      := by decide

theorem test_trap :
    after (start.setCtl 0 0x00000001#32) 0x003B683A
      (fun t => (t.getReg 29, t.getCtl 0, t.getCtl 1, t.pc)) =
      some (0x00000104#32, 0x00000000#32, 0x00000001#32, 0x00000020#32) := by decide

theorem test_break :
    after (start.setCtl 0 0x00000001#32) 0x003DA03A
      (fun t => (t.getReg 29, t.getCtl 0, t.getCtl 1, t.pc)) =
      some (0x00000104#32, 0x00000000#32, 0x00000001#32, 0x00000020#32) := by decide

/-! ### One step: memory -/

theorem test_ldb :
    after (start.setReg 2 0x00001004#32) 0x10FFFFC7 (fun t => (t.getReg 3, t.pc, t.out)) =
      some (0xFFFFFF89#32, 0x00000104#32, [.trace .fetch 0x100#32, .trace .load 0x00001003#32])
      := by decide

theorem test_ldbu :
    after (start.setReg 2 0x00001000#32) 0x10C000C3 (fun t => (t.getReg 3, t.pc, t.out)) =
      some (0x00000089#32, 0x00000104#32, [.trace .fetch 0x100#32, .trace .load 0x00001003#32])
      := by decide

theorem test_ldh :
    after (start.setReg 2 0x00001000#32) 0x10C0008F (fun t => (t.getReg 3, t.pc, t.out)) =
      some (0xFFFF89AB#32, 0x00000104#32, [.trace .fetch 0x100#32, .trace .load 0x00001002#32])
      := by decide

theorem test_ldhu :
    after (start.setReg 2 0x00001000#32) 0x10C0008B (fun t => (t.getReg 3, t.pc, t.out)) =
      some (0x000089AB#32, 0x00000104#32, [.trace .fetch 0x100#32, .trace .load 0x00001002#32])
      := by decide

theorem test_ldw_1 :
    after (start.setReg 2 0x00001004#32) 0x10FFFF17 (fun t => (t.getReg 3, t.pc, t.out)) =
      some (0x89ABCDEF#32, 0x00000104#32, [.trace .fetch 0x100#32, .trace .load 0x00001000#32])
      := by decide

theorem test_ldw_2 :
    after (start.setReg 2 0x00001000#32) 0x10800017 (fun t => (t.getReg 2, t.pc, t.out)) =
      some (0x89ABCDEF#32, 0x00000104#32, [.trace .fetch 0x100#32, .trace .load 0x00001000#32])
      := by decide

theorem test_ldbio :
    after (start.setReg 2 0x00001000#32) 0x10C000E7 (fun t => (t.getReg 3, t.pc, t.out)) =
      some (0xFFFFFF89#32, 0x00000104#32, [.trace .fetch 0x100#32]) := by decide

theorem test_ldbuio :
    after (start.setReg 2 0x00001000#32) 0x10C000E3 (fun t => (t.getReg 3, t.pc, t.out)) =
      some (0x00000089#32, 0x00000104#32, [.trace .fetch 0x100#32]) := by decide

theorem test_ldhio :
    after (start.setReg 2 0x00001000#32) 0x10C000AF (fun t => (t.getReg 3, t.pc, t.out)) =
      some (0xFFFF89AB#32, 0x00000104#32, [.trace .fetch 0x100#32]) := by decide

theorem test_ldhuio :
    after (start.setReg 2 0x00001000#32) 0x10C000AB (fun t => (t.getReg 3, t.pc, t.out)) =
      some (0x000089AB#32, 0x00000104#32, [.trace .fetch 0x100#32]) := by decide

theorem test_ldwio :
    after (start.setReg 2 0x00001000#32) 0x10C00037 (fun t => (t.getReg 3, t.pc, t.out)) =
      some (0x89ABCDEF#32, 0x00000104#32, [.trace .fetch 0x100#32]) := by decide

theorem test_stb_1 :
    after ((start.setReg 2 0x00001000#32).setReg 3 0x11223344#32) 0x10C00045
      (fun t => (t.pc, wordAt t 0x1000#32, wordAt t 0x1004#32, t.out)) =
      some (0x00000104#32, 0x89AB44EF#32, 0x00FF7F80#32, [.trace .fetch 0x100#32, .trace .store 0x00001001#32])
      := by decide

theorem test_stb_2 :
    after ((start.setReg 2 0x00000000#32).setReg 3 0x11223344#32) 0x10FFFFC5
      (fun t => (t.pc, t.fatal)) =
      some (0x00000104#32, some ⟨.invalidAddress, 0xFFFFFFFF#32, .byte, .store, some 0x00000044#32⟩)
      := by decide

theorem test_sth_1 :
    after ((start.setReg 2 0x00001000#32).setReg 3 0x11223344#32) 0x10C0008D
      (fun t => (t.pc, wordAt t 0x1000#32, wordAt t 0x1004#32, t.out)) =
      some (0x00000104#32, 0x3344CDEF#32, 0x00FF7F80#32, [.trace .fetch 0x100#32, .trace .store 0x00001002#32])
      := by decide

theorem test_sth_2 :
    after ((start.setReg 2 0x00001000#32).setReg 3 0x11223344#32) 0x10C0004D
      (fun t => (t.pc, t.fatal)) =
      some (0x00000104#32, some ⟨.misalignedAccess, 0x00001001#32, .half, .store, some 0x00003344#32⟩)
      := by decide

theorem test_stw_1 :
    after ((start.setReg 2 0x00001000#32).setReg 3 0x11223344#32) 0x10C00015
      (fun t => (t.pc, wordAt t 0x1000#32, wordAt t 0x1004#32, t.out)) =
      some (0x00000104#32, 0x11223344#32, 0x00FF7F80#32, [.trace .fetch 0x100#32, .trace .store 0x00001000#32])
      := by decide

theorem test_stw_2 :
    after ((start.setReg 2 0x00001000#32).setReg 3 0x11223344#32) 0x10C00095
      (fun t => (t.pc, t.fatal)) =
      some (0x00000104#32, some ⟨.misalignedAccess, 0x00001002#32, .word, .store, some 0x11223344#32⟩)
      := by decide

theorem test_stbio :
    after ((start.setReg 2 0x00001000#32).setReg 3 0x11223344#32) 0x10C00025
      (fun t => (t.pc, wordAt t 0x1000#32, wordAt t 0x1004#32, t.out)) =
      some (0x00000104#32, 0x89ABCD44#32, 0x00FF7F80#32, [.trace .fetch 0x100#32]) := by decide

theorem test_sthio :
    after ((start.setReg 2 0x00001000#32).setReg 3 0x11223344#32) 0x10C0002D
      (fun t => (t.pc, wordAt t 0x1000#32, wordAt t 0x1004#32, t.out)) =
      some (0x00000104#32, 0x89AB3344#32, 0x00FF7F80#32, [.trace .fetch 0x100#32]) := by decide

theorem test_stwio :
    after ((start.setReg 2 0x00001000#32).setReg 3 0x11223344#32) 0x10C00135
      (fun t => (t.pc, wordAt t 0x1000#32, wordAt t 0x1004#32, t.out)) =
      some (0x00000104#32, 0x89ABCDEF#32, 0x11223344#32, [.trace .fetch 0x100#32]) := by decide

/-! ## The configuration (20_memory.md R63; 00_scope.md R7) -/

/-- One region of RAM, to be spoilt. -/
def ram : Region := { name := "ram", base := 0x0#32, span := 0x1000, irq := none, dev := .ram }

/-- A serial port, to be spoilt. -/
def serial : Region :=
  { name := "serial", base := 0x9000#32, span := 0x10, irq := some 2, dev := .serialPort .empty }

theorem test_well_formed : busWellFormed exampleBus = true ∧ busWellFormed [ram, serial] = true := by
  decide

theorem test_refuses_unaligned_base :
    busWellFormed [{ ram with base := 0x2#32 }] = false := by decide

theorem test_refuses_empty_region : busWellFormed [{ ram with span := 0 }] = false := by decide

theorem test_refuses_unaligned_span :
    busWellFormed [{ ram with span := 0x1002 }] = false := by decide

theorem test_refuses_region_past_the_end :
    busWellFormed [{ ram with base := 0xFFFFF000#32, span := 0x1000 }] = true ∧
      busWellFormed [{ ram with base := 0xFFFFF000#32, span := 0x1004 }] = false := by decide

theorem test_refuses_span_below_the_registers :
    busWellFormed [{ serial with span := 0xC }] = false := by decide

theorem test_refuses_ram_with_a_line : busWellFormed [{ ram with irq := some 1 }] = false := by
  decide

theorem test_refuses_odd_or_empty_display :
    (Region.displayLength { ram with dev := .characterDisplay 31 (.cleared 31) } = false) ∧
      Region.displayLength { ram with dev := .characterDisplay 0 (.cleared 0) } = false := by decide

theorem test_refuses_overlap :
    busWellFormed [ram, { serial with base := 0xFFC#32 }] = false ∧
      busWellFormed [ram, { serial with base := 0x1000#32 }] = true := by decide

theorem test_refuses_shared_line :
    busWellFormed [serial, { serial with base := 0xA000#32 }] = false := by decide

/-- A state whose configuration is not well formed. -/
def illFormed : State := { start with bus := [serial, serial] }

theorem test_step_refuses_ill_formed :
    refusalOf (step illFormed) = some .illFormedConfiguration := by decide

/-! ## The tick (95_test_vectors.md Part 2, 3.7 and 3.9) -/

theorem test_unassigned_op :
    after (start.setCtl 0 1#32) 0x00000002
      (fun t => (t.getReg 29, t.pc, t.getCtl 0, t.getCtl 1)) =
      some (0x104#32, 0x20#32, 0#32, 1#32) := by decide

theorem test_unassigned_opx :
    after start 0x10C8503A (fun t => (t.getReg 29, t.pc)) = some (0x104#32, 0x20#32) := by decide

theorem test_break_architectural :
    refusalOf (step (archStart.withFetchWord 32 0x003DA03A)) = some .breakNotModelled := by decide

/-- A running machine with line 1 enabled and pending and PIE set. -/
def interrupted : State := withIrq ((start.setCtl 0 1#32).setCtl 3 2#32) 2#32

theorem test_interrupt :
    after interrupted 0x00048D04 (fun t => (t.getReg 29, t.pc, t.getCtl 0, t.getCtl 1, t.clock)) =
      some (0x104#32, 0x20#32, 0#32, 1#32, 1) := by decide

theorem test_misaligned_pc :
    (next? (step (start.setPc 0x102#32))).map (fun t => (t.fatal, t.pc, t.clock)) =
      some (some ⟨.misalignedAccess, 0x102#32, .word, .fetch, none⟩, 0x102#32, 0) := by decide

theorem test_unmapped_pc :
    (next? (step (start.setPc 0x8018#32))).map (fun t => (t.fatal, t.pc, t.clock)) =
      some (some ⟨.invalidAddress, 0x8018#32, .word, .fetch, none⟩, 0x8018#32, 0) := by decide

/-- A machine with a breakpoint at the instruction it comes to. -/
def broken : State := { start with bp := [(0x100, 1)] }

theorem test_halt :
    (next? (step broken)).map (fun t => (t.runState, t.pc, t.clock, t.out)) =
      some (.halted, 0x100#32, 0, [.haltNotify 0x100#32]) := by decide

/-! ## Devices (95_test_vectors.md 3.10, T7, T8) -/

theorem test_narrow_device_access :
    refusalOf (step ((start.setReg 2 0x8000#32).withFetchWord 32 0x10C00003)) =
      some .deviceNarrowAccess := by decide

theorem test_timer_start_and_stop :
    refusalOf (step (((start.setReg 2 0x8000#32).setReg 3 0xC#32).withFetchWord 32 0x10C00115)) =
      some .timerStartAndStop := by decide

/-- A Timer of period 1, started with ITO (T7). -/
def oneClock : TimerState :=
  { period := 1#32, counter := 1#32, ito := true, cont := false, timeout := false, run := true,
    counting := true, snapshot := 0#32 }

/-- A Timer with every register writable. -/
def plainTimer : TimerParams :=
  { periodInit := 9#32, alwaysRun := false, fixedPeriod := false, hasSnapshot := true }

theorem test_timer_two_clocks :
    ((oneClock.onClock plainTimer).1.onClock plainTimer) =
      ({ oneClock with timeout := true, run := false, counting := false }, some true) := by decide

/-- An enabled serial channel holding "AB" (T8). -/
def holdingAB : SerialState :=
  { fifo := [0x41#8, 0x42#8], rxIrqEn := true, txIrqEn := false, txPending := false }

theorem test_serial_read :
    (Device.readReg (.serialPort holdingAB) 0).1 = 0x41#32 ∧
      (Device.readReg (.debugChannel holdingAB) 0).1 = 0x00018041#32 ∧
      (Device.readReg (.serialPort holdingAB) 8).1 = 0xE0#32 ∧
      (Device.readReg (.debugChannel holdingAB) 4).1 = 0x00400101#32 := by decide

/-! ## Host events (95_test_vectors.md 3.12, T11) -/

/-- The state a host event leaves. -/
def done? (r : HostResult) : Option State :=
  match r with
  | .done t => some t
  | .failed => none
  | .notAdmitted => none

/-- A machine that a fatal error has stopped in a nested call, halted before that. -/
def troubled : State :=
  { interrupted with
    pc := 0x2468#32, callStackSize := 3, stepFrame := 2, clock := 1234, bp := [(0x200, 2)]
    runState := .halted, debuggingState := .stepOver
    fatal := some ⟨.invalidAddress, 0x2468#32, .word, .fetch, none⟩ }

theorem test_reset :
    (done? (applyHost .reset troubled)).map
      (fun t => (t.pc, t.getCtl 0, t.irq, t.fatal, t.runState)) =
      some (0x100#32, 0#32, 0#32, none, .run) := by decide

theorem test_reset_keeps :
    (done? (applyHost .reset troubled)).map
      (fun t => (t.debuggingState, t.callStackSize, t.bp, t.clock, wordAt t 0x1000#32)) =
      some (.stepOver, 0, [(0x200, 2)], 1234, 0x89ABCDEF#32) := by decide

theorem test_load :
    (done? (applyHost (.loadImage [⟨0x1000#32, 8, [0xAA#8, 0xBB#8, 0xCC#8]⟩] 0x104#32 []) start)).map
      (fun t => (wordAt t 0x1000#32, wordAt t 0x1004#32, t.pc)) =
      some (0x00CCBBAA#32, 0#32, 0x104#32) := by decide

/-- The devices of 3.12 before and after. -/
theorem test_reset_devices :
    [Device.timer plainTimer
        { period := 5#32, counter := 4#32, ito := true, cont := true, timeout := true, run := true,
          counting := true, snapshot := 0#32 },
      .serialPort { fifo := [0x71#8], rxIrqEn := true, txIrqEn := true, txPending := true },
      .parallelIO .input { data := 0x11#32, irqMask := 1#32, edgeCapture := 1#32 },
      .parallelIO .output { data := 0xAA#32, irqMask := 0#32, edgeCapture := 0#32 },
      .characterDisplay 2 { text := [0x41#8, 0x20#8], cursor := 1 }].map
        (fun d => (d.resetDevice 7).dev) =
    [Device.timer plainTimer
        { period := 5#32, counter := 5#32, ito := false, cont := false, timeout := false,
          run := false, counting := false, snapshot := 0#32 },
      .serialPort { fifo := [], rxIrqEn := false, txIrqEn := false, txPending := false },
      .parallelIO .input { data := 0x11#32, irqMask := 0#32, edgeCapture := 0#32 },
      .parallelIO .output { data := 0#32, irqMask := 0#32, edgeCapture := 0#32 },
      .characterDisplay 2 { text := [0x20#8, 0x20#8], cursor := 0 }] := by decide

/-- The 32 `PioOut` of the out-direction port, then the `LcdText` (3.12). -/
theorem test_reset_events :
    (done? (applyHost .reset start)).map (fun t => t.out) =
      some ((List.range 32).map (fun k => Event.pioOut 4 k false) ++
        [.lcdText 5 (List.replicate 32 0x20#8)]) := by decide

/-- The later segment wins where two overlap (R466 (2)). -/
theorem test_load_overlapping :
    (done? (applyHost (.loadImage
        [⟨0x1000#32, 4, [1#8, 2#8, 3#8, 4#8]⟩, ⟨0x1002#32, 4, [5#8]⟩] 0x100#32 []) start)).map
      (fun t => (wordAt t 0x1000#32, wordAt t 0x1004#32)) = some (0x00050201#32, 0x00FF0000#32) := by
  decide

theorem test_load_fails :
    applyHost (.loadImage [⟨0x100#32, 4, []⟩, ⟨0x8000#32, 4, []⟩] 0x100#32 []) start =
      .failed := by decide

/-! ## What the host's two questions rest on -/

theorem test_decodeTableWord : decodeTableWord 32 0x10C9883A = some (.add 4 2 3) := by decide

theorem test_withFetchWord :
    (next? (step ((State.reset.setReg 2 5#32).withFetchWord 32 0x10C00104))).map
      (fun t => (t.getReg 3, t.pc)) = some (9#32, 0x104#32) := by decide

/-! ## Witnesses: for each statement with hypotheses, a state and operands that meet them -/

theorem witness_OnlyOpAndOpxSelectTheInstruction :
    (opField 0x10C8703A#32 = opField 0xFFFE77FA#32 ∧ opxField 0x10C8703A#32 = opxField 0xFFFE77FA#32) ∧
      opField 0x10FFFFC4#32 = opField 0x00000004#32 ∧ opField 0x00000004#32 ≠ 0x3A#6 := by decide

theorem witness_UnassignedEncodingsTakeTheException :
    (∃ e, decodeWord 0x00000002#32 = .error e) ∧ (∃ e, decodeWord 0xFFFFFFFF#32 = .error e) ∧
      (∃ e, decodeWord 0x0000003A#32 = .error e) ∧ ∃ e, decodeWord 0x0001F83A#32 = .error e :=
  ⟨⟨_, rfl⟩, ⟨_, rfl⟩, ⟨_, rfl⟩, ⟨_, rfl⟩⟩

/-- `start` with `add r4, r2, r3` where it fetches. -/
def adding : State := start.withFetchWord 32 0x10C9883A

/-- The same machine resuming, with an interrupt ready and a breakpoint at `pc`. -/
def resuming : State :=
  { interrupted.withFetchWord 32 0x10C9883A with runState := .resuming, bp := [(0x100, 1)] }

theorem witness_StepRunsTheDecodedInstruction :
    (adding.configOk = true ∧ adding.fatal = none ∧
      (adding.runState = .run ∧ adding.interruptReady = false ∧ adding.shouldHalt adding.pc = false) ∧
      adding.pc.toNat % 4 = 0 ∧ adding.isRam adding.pc = true ∧
      decodeWord (adding.mem.readSize adding.pc .word) = .ok (.add 4 2 3)) ∧
    resuming.configOk = true ∧ resuming.fatal = none ∧ resuming.runState = .resuming ∧
      resuming.pc.toNat % 4 = 0 ∧ resuming.isRam resuming.pc = true ∧
      decodeWord (resuming.mem.readSize resuming.pc .word) = .ok (.add 4 2 3) := by decide

/-- `start` with a word that is no instruction where it fetches. -/
def unassigned : State := start.withFetchWord 32 0x00000002

theorem witness_StepOnAnUnassignedWord :
    (unassigned.configOk = true ∧ unassigned.fatal = none ∧
      (unassigned.runState = .run ∧ unassigned.interruptReady = false ∧
        unassigned.shouldHalt unassigned.pc = false) ∧
      unassigned.pc.toNat % 4 = 0 ∧ unassigned.isRam unassigned.pc = true) ∧
    ∃ e, decodeWord (unassigned.mem.readSize unassigned.pc .word) = .error e :=
  ⟨by decide, ⟨.unassignedOp 2#6, by decide⟩⟩

/-- `start` about to fetch from the last register of the Timer. -/
def atDevice : State := start.setPc 0x8014#32

theorem witness_StepOnADevice :
    (atDevice.configOk = true ∧ atDevice.fatal = none ∧
      (atDevice.runState = .run ∧ atDevice.interruptReady = false ∧
        atDevice.shouldHalt atDevice.pc = false) ∧
      atDevice.pc.toNat % 4 = 0) ∧
    atDevice.resolve atDevice.pc = some (1, exampleBus[1]) ∧ exampleBus[1].dev ≠ .ram ∧
      atDevice.cfg.deviceFetch = .asRead := by decide

theorem witness_EnabledInterruptIsTakenBeforeAnythingElse :
    interrupted.configOk = true ∧ interrupted.fatal = none ∧ interrupted.runState = .run ∧
      (interrupted.getCtl 0).getLsbD 0 = true ∧ interrupted.irq &&& interrupted.getCtl 3 ≠ 0#32 := by
  decide

theorem witness_BadPcIsFatal_unmapped :
    (start.setPc 0x8018#32).configOk = true ∧ (start.setPc 0x8018#32).fatal = none ∧
      ((start.setPc 0x8018#32).runState = .run ∧ (start.setPc 0x8018#32).interruptReady = false) ∧
      (start.setPc 0x8018#32).addressValid (start.setPc 0x8018#32).pc = false := by decide

theorem witness_BadPcIsFatal_resuming_unmapped :
    (resuming.setPc 0xFFFFFFFF#32).configOk = true ∧ (resuming.setPc 0xFFFFFFFF#32).fatal = none ∧
      (resuming.setPc 0xFFFFFFFF#32).runState = .resuming ∧
      (resuming.setPc 0xFFFFFFFF#32).addressValid (resuming.setPc 0xFFFFFFFF#32).pc = false := by decide

theorem witness_BadPcIsFatal_misaligned :
    (start.setPc 0x7FFF#32).configOk = true ∧ (start.setPc 0x7FFF#32).fatal = none ∧
      ((start.setPc 0x7FFF#32).runState = .run ∧ (start.setPc 0x7FFF#32).interruptReady = false) ∧
      (start.setPc 0x7FFF#32).addressValid (start.setPc 0x7FFF#32).pc = true ∧
      (start.setPc 0x7FFF#32).pc.toNat % 4 ≠ 0 ∧
      (start.setPc 0x7FFF#32).shouldHalt (start.setPc 0x7FFF#32).pc = false := by decide

theorem witness_BadPcIsFatal_resuming_misaligned :
    (resuming.setPc 0x1#32).configOk = true ∧ (resuming.setPc 0x1#32).fatal = none ∧
      (resuming.setPc 0x1#32).runState = .resuming ∧
      (resuming.setPc 0x1#32).addressValid (resuming.setPc 0x1#32).pc = true ∧
      (resuming.setPc 0x1#32).pc.toNat % 4 ≠ 0 := by decide

theorem witness_DueHaltSuspendsBeforeTheFetch :
    broken.configOk = true ∧ broken.fatal = none ∧ broken.runState = .run ∧
      broken.interruptReady = false ∧ broken.addressValid broken.pc = true ∧
      broken.shouldHalt broken.pc = true := by decide

/-- A machine that a fatal error has stopped. -/
def stopped : State := start.raiseFatal ⟨.invalidAddress, 0x8018#32, .word, .fetch, none⟩

theorem witness_StoppedMachineStaysPutAndIllFormedIsRefused :
    (stopped.configOk = true ∧ stopped.fatal ≠ none) ∧
      (broken.halt.configOk = true ∧ broken.halt.runState = .halted) ∧
      illFormed.configOk = false := by decide

theorem witness_ClockCountsCompletedSteps :
    (adding.fatal = none ∧ adding.runState ≠ .halted ∧ (next? (step adding)).isSome = true) ∧
      (broken.fatal = none ∧ broken.runState ≠ .halted ∧ (next? (step broken)).isSome = true) ∧
      (next? (step (start.setPc 1#32))).isSome = true ∧
      stopped.fatal ≠ none ∧ (next? (step stopped)).isSome = true := by decide

theorem witness_UnimplementedInstructionsTakeTheException :
    (start.cfg.unlisted.muli = .exception ∧ start.cfg.unlisted.nextpc = .exception ∧
      start.cfg.unlisted.brk = .exception) ∧
      archStart.cfg.unlisted.muli = .architectural ∧ archStart.cfg.unlisted.nextpc = .architectural ∧
      archStart.cfg.unlisted.brk = .architectural := by decide

theorem witness_ImmediateFormsAgreeWithRegisterForms :
    (start.setReg 5 0xFFFF#32).getReg 5 = 0#16 ++ 0xFFFF#16 ∧
      (start.setReg 5 0xFFFF0000#32).getReg 5 = 0xFFFF#16 ++ 0#16 ∧
      (start.setReg 5 0xFFFF8000#32).getReg 5 = (0x8000#16).signExtend 32 := by decide

/-- `start` with two register values, in registers 2 and 3. -/
def pair (a b : Word) : State := (start.setReg 2 a).setReg 3 b

theorem witness_UnsignedDivide :
    (pair 7#32 0#32).getReg 3 = 0#32 ∧ (pair 7#32 0xFFFFFFFF#32).getReg 3 ≠ 0#32 := by decide

theorem witness_SignedDivide :
    (pair 0x80000000#32 0#32).getReg 3 = 0#32 ∧
      ((pair 0x80000001#32 0xFFFFFFFF#32).getReg 3 ≠ 0#32 ∧
        ¬ ((pair 0x80000001#32 0xFFFFFFFF#32).getReg 2 = 0x80000000#32 ∧
          (pair 0x80000001#32 0xFFFFFFFF#32).getReg 3 = 0xFFFFFFFF#32)) ∧
      (pair 0x80000000#32 0xFFFFFFFF#32).getReg 2 = 0x80000000#32 ∧
      (pair 0x80000000#32 0xFFFFFFFF#32).getReg 3 = 0xFFFFFFFF#32 := by decide

theorem witness_ShiftAndRotateByRegister :
    0 = ((pair 0#32 0x20#32).getReg 3).toNat % 32 ∧
      31 = ((pair 0#32 0xFFFFFFFF#32).getReg 3).toNat % 32 := by decide

theorem witness_UnconditionalJumps :
    ((pair 0x1000#32 0#32).getReg 2).toNat % 4 = 0 ∧ ((pair 0x1001#32 0#32).getReg 2).toNat % 4 ≠ 0 ∧
      (start.pc + (0xFFFC#16).signExtend 32).toNat % 4 = 0 ∧
      (start.pc + (0x7FFF#16).signExtend 32).toNat % 4 ≠ 0 := by decide

theorem witness_CallsSaveTheNextAddress :
    ((pair 0xFFFFFFFC#32 0#32).getReg 2).toNat % 4 = 0 ∧
      ((pair 0xFFFFFFFF#32 0#32).getReg 2).toNat % 4 ≠ 0 := by decide

/-- The six relations hold, and fail, at values where signed and unsigned order differ, and both
kinds of target occur. -/
theorem witness_ConditionalBranches :
    (pair 7#32 7#32).getReg 2 = (pair 7#32 7#32).getReg 3 ∧
      ((pair 0x80000000#32 0x7FFFFFFF#32).getReg 2).toInt <
        ((pair 0x80000000#32 0x7FFFFFFF#32).getReg 3).toInt ∧
      ((pair 0x80000000#32 0x7FFFFFFF#32).getReg 2).toNat ≥
        ((pair 0x80000000#32 0x7FFFFFFF#32).getReg 3).toNat ∧
      ((pair 7#32 8#32).getReg 2).toNat < ((pair 7#32 8#32).getReg 3).toNat ∧
      ((pair 8#32 7#32).getReg 2).toInt ≥ ((pair 8#32 7#32).getReg 3).toInt ∧
      (start.pc + (0x8000#16).signExtend 32).toNat % 4 = 0 ∧
      (start.pc + (0x8002#16).signExtend 32).toNat % 4 ≠ 0 := by decide

theorem witness_OnlyCallsAndRetChangeTheCallDepth :
    (next? (exec (.call 0#26) start)).isSome = true ∧
      (next? (exec (.callr 2) (pair 0x1000#32 0#32))).isSome = true ∧
      (next? (exec (.callr 2) (pair 0x1001#32 0#32))).isSome = true ∧
      (next? (exec .ret start)).isSome = true ∧ (next? (exec .trap start)).isSome = true := by decide

theorem witness_WrctlWritesTheControlRegister :
    (3 : CtlReg) ≠ 4 ∧ (0 : CtlReg) ≠ 3 ∧ (0 : CtlReg) ≠ 4 := by decide

/-- The last byte, halfword and word of RAM. -/
theorem witness_LoadsFromRamReadTheirBytes :
    (0x7FFF#32 = start.getReg 0 + (0x7FFF#16).signExtend 32 ∧ RamAccess start 0x7FFF#32 .byte) ∧
      (0x7FFE#32 = start.getReg 0 + (0x7FFE#16).signExtend 32 ∧ RamAccess start 0x7FFE#32 .half) ∧
      0x7FFC#32 = start.getReg 0 + (0x7FFC#16).signExtend 32 ∧ RamAccess start 0x7FFC#32 .word :=
  ⟨⟨by decide, by decide, by decide⟩, ⟨by decide, by decide, by decide⟩, by decide, by decide,
    by decide⟩

theorem witness_StoresToRamChangeOnlyTheirBytes :
    (0x7FFF#32 = start.getReg 0 + (0x7FFF#16).signExtend 32 ∧ RamAccess start 0x7FFF#32 .byte) ∧
      (0x7FFE#32 = start.getReg 0 + (0x7FFE#16).signExtend 32 ∧ RamAccess start 0x7FFE#32 .half) ∧
      (0x7FFC#32 = start.getReg 0 + (0x7FFC#16).signExtend 32 ∧ RamAccess start 0x7FFC#32 .word) ∧
      start.mem.wf = true :=
  ⟨⟨by decide, by decide, by decide⟩, ⟨by decide, by decide, by decide⟩,
    ⟨by decide, by decide, by decide⟩, by decide⟩

theorem witness_BadDataAccessIsFatal :
    (0x7FFF#32 = start.getReg 0 + (0x7FFF#16).signExtend 32 ∧
      (0x7FFF#32).toNat % Size.half.bytes ≠ 0 ∧ (0x7FFF#32).toNat % Size.word.bytes ≠ 0) ∧
      (0xFFFFFFFF#32 = start.getReg 0 + (0xFFFF#16).signExtend 32 ∧
        (0xFFFFFFFF#32).toNat % Size.byte.bytes = 0 ∧ start.addressValid 0xFFFFFFFF#32 = false) ∧
      (0xFFFF8018#32 = start.getReg 0 + (0x8018#16).signExtend 32 ∧
        (0xFFFF8018#32).toNat % Size.half.bytes = 0 ∧ (0xFFFF8018#32).toNat % Size.word.bytes = 0 ∧
        start.addressValid 0xFFFF8018#32 = false) := by decide

/-- The Timer of the board, in region 1 at 0x8000. -/
def timerRegion : Region := exampleBus[1]

theorem witness_NarrowDeviceAccessIsRefused :
    0x8002#32 = (pair 0x8000#32 0#32).getReg 2 + (2#16).signExtend 32 ∧
      (0x8002#32).toNat % Size.byte.bytes = 0 ∧ (0x8002#32).toNat % Size.half.bytes = 0 ∧
      (pair 0x8000#32 0#32).resolve 0x8002#32 = some (1, timerRegion) ∧ timerRegion.dev ≠ .ram := by
  decide

/-- A read, a write that the Timer takes, and one that it refuses. -/
theorem witness_WordAccessReachesTheDeviceRegister :
    (0x8004#32 = (pair 0x8000#32 5#32).getReg 2 + (4#16).signExtend 32 ∧ (0x8004#32).toNat % 4 = 0 ∧
      (pair 0x8000#32 5#32).configOk = true ∧
      (pair 0x8000#32 5#32).resolve 0x8004#32 = some (1, timerRegion) ∧ timerRegion.dev ≠ .ram ∧
      4 = (0x8004#32).toNat - timerRegion.base.toNat) ∧
    (∃ d, timerRegion.dev.writeReg 1 4 ((pair 0x8000#32 5#32).getReg 3) = .ok d) ∧
    ∃ e, timerRegion.dev.writeReg 1 4 ((pair 0x8000#32 0xC#32).getReg 3) = .error e :=
  ⟨by decide, ⟨_, rfl⟩, ⟨_, rfl⟩⟩

theorem witness_LoadAfterStoreGivesTheStoredWord :
    0x7FFC#32 = start.getReg 0 + (0x7FFC#16).signExtend 32 ∧ RamAccess start 0x7FFC#32 .word ∧
      start.configOk = true ∧ start.mem.wf = true ∧ (4 : Reg) ≠ 0 ∧ (5 : Reg) ≠ 0 ∧ 3 < 4 :=
  ⟨by decide, ⟨by decide, by decide⟩, by decide, by decide, by decide, by decide, by decide⟩

theorem witness_TimerTimesOutAfterPeriodPlusOneClocks :
    (oneClock.counting = true ∧ oneClock.counter = oneClock.period ∧
      1 ≤ oneClock.period.toNat ∧ 0 < oneClock.period.toNat) ∧
      { oneClock with period := 0#32, counter := 0#32 }.counter =
        { oneClock with period := 0#32, counter := 0#32 }.period := by decide

theorem witness_TimerRegisterWrites :
    (plainTimer.alwaysRun = false ∧ (0xC#32).getLsbD 2 = true ∧ (0xC#32).getLsbD 3 = true) ∧
      ¬ (plainTimer.alwaysRun = false ∧ (0x8#32).getLsbD 2 = true ∧ (0x8#32).getLsbD 3 = true) ∧
      { plainTimer with fixedPeriod := true }.fixedPeriod = true ∧ plainTimer.fixedPeriod = false := by
  decide

theorem witness_SerialInputIsReadInOrder :
    SerialState.empty.fifo = [] ∧ 0 < [0x41#8, 0x42#8].length ∧ 1 < [0x41#8, 0x42#8].length := by
  decide

theorem witness_DisplayCommandsAndCharacters :
    ((LcdState.cleared 32).text.length = 32 ∧ (LcdState.cleared 32).cursor < 32) ∧
      { LcdState.cleared 32 with cursor := 31 }.cursor < 32 := by decide

theorem witness_BreakpointCountsGoUpAndDownByOne : broken.bp.wf = true ∧ start.bp.wf = true := by
  decide

theorem witness_ShouldHaltInEachMode :
    start.debuggingState = .continue_ ∧
      ∀ m ∈ [DebuggingState.stepReturn, .stepOver, .stepInto, .stepInstruction],
        (start.selectMode m).debuggingState = m := by decide

/-- A machine in StepOver at the depth of its snapshot, about to return. -/
def returning : State := (start.selectMode .stepOver).withFetchWord 32 0xF800283A

theorem witness_StepOverHaltsLikeStepReturn :
    returning.depthOk ∧ returning.debuggingState = .stepOver ∧
      (next? (step returning)).isSome = true ∧ (done? (applyHost .reset returning)).isSome = true :=
  ⟨fun _ => by decide, by decide, by decide, by decide⟩

theorem witness_SelectModeSnapshotsAndResumes :
    broken.halt.runState = .halted ∧ start.runState ≠ .halted := by decide

/-- Two segments in the last word of RAM, the second inside the first: the first byte of the word
stands in the first segment alone, its last byte in both, and the byte before the word in neither. -/
def lastWord : List Segment := [⟨0x7FFC#32, 4, [1#8]⟩, ⟨0x7FFF#32, 1, []⟩]

theorem witness_LoadImageIsAllOrNothing_fits :
    (start.configOk = true ∧ start.mem.wf = true) ∧ (∀ g ∈ lastWord, g.bytes.length ≤ g.memlen) ∧
      (∀ g ∈ lastWord, g.InRam start.bus) ∧
      (lastWord = [] ++ ⟨0x7FFC#32, 4, [1#8]⟩ :: [⟨0x7FFF#32, 1, []⟩] ∧ 0 < 4 ∧
        ∀ g' ∈ [(⟨0x7FFF#32, 1, []⟩ : Segment)], ¬ g'.Covers (0x7FFC#32 + BitVec.ofNat 32 0)) ∧
      ∀ g ∈ lastWord, ¬ g.Covers 0x7FFB#32 := by
  refine ⟨by decide, by decide, ?_, ⟨rfl, by decide, ?_⟩, ?_⟩
  · exact fun g hg => ⟨exampleBus[0], by decide, rfl, by revert g; decide, by revert g; decide⟩
  · have h : ∀ g ∈ [(⟨0x7FFF#32, 1, []⟩ : Segment)], ¬ g.addr.toNat ≤ 0x7FFC := by decide
    exact fun g hg c => h g hg c.1
  · have h : ∀ g ∈ lastWord, ¬ g.addr.toNat ≤ 0x7FFB := by decide
    exact fun g hg c => h g hg c.1

/-- The second of two segments ends one byte past RAM. -/
theorem witness_LoadImageIsAllOrNothing_fails :
    (∀ g ∈ [(⟨0x7FFC#32, 4, [1#8]⟩ : Segment), ⟨0x7FFC#32, 5, [1#8]⟩], g.bytes.length ≤ g.memlen) ∧
      ∃ g ∈ [(⟨0x7FFC#32, 4, [1#8]⟩ : Segment), ⟨0x7FFC#32, 5, [1#8]⟩], ¬ g.InRam start.bus := by
  refine ⟨by decide, ⟨0x7FFC#32, 5, [1#8]⟩, by decide, ?_⟩
  rintro ⟨r, hr, hd, -, h⟩
  exact absurd h (by revert r; decide)

theorem witness_StepKeepsTheDataInvariant :
    adding.dataOk = true ∧ (next? (step adding)).isSome = true := by decide

theorem witness_StepKeepsTheConfiguration : (next? (step adding)).isSome = true := by decide

/-- Every line function low and no line pending. -/
theorem witness_StepKeepsLinesAtTheirLevel :
    LinesAgree adding.irq adding.bus ∧ (next? (step adding)).isSome = true := by
  refine ⟨?_, by decide⟩
  intro r hr n l hn hl
  simp only [adding, start, State.reset, State.withFetchWord, placeWord, exampleBus, List.mem_cons,
    List.not_mem_nil, or_false] at hr ⊢
  rcases hr with rfl | rfl | rfl | rfl | rfl | rfl | rfl <;>
    simp_all [Device.line, TimerState.line, SerialState.line, PioState.line]

theorem witness_HostEventsKeepTheInvariants :
    adding.dataOk = true ∧ adding.configOk = true ∧
      (done? (applyHost (.setReg 2 1#32) adding)).isSome = true ∧
      (done? (applyHost (.sendInput 2 [0x41#8]) adding)).isSome = true := by decide

end Sys2Proof.Tests
end

section
/-! The logic instructions (40_logic.md). Each meaning is one `writeResult`, so an obligation is the
rows of the opcode map, the equation of each instruction, and the one rule of `writeResult`. -/

namespace Sys2Proof.Machine

/-! ## Rows of the opcode maps (30_encoding.md R105) -/

/-- A row of the opcode map fixes the instruction of every word with its `OP`. -/
theorem decodesOp_of_row {op : BitVec 6} {f : Word → Instr} (row : ∀ w, decodeOp op w = .ok (f w)) :
    DecodesOp op f := by
  intro w hop
  rw [decodeWord, hop, row]

/-- A row of the R-type map fixes the instruction of every R-type word with its `OPX`. -/
theorem decodesOpx_of_row {opx : BitVec 6} {f : Word → Instr}
    (row : ∀ w, decodeRType opx w = .ok (f w)) : DecodesOpx opx f := by
  intro w hop hopx
  have rType : decodeWord w = decodeRType (opxField w) w := by rw [decodeWord, hop]; rfl
  rw [rType, hopx, row]

/-! ## Instructions that end in `writeResult` -/

/-- A register write is seen at that register alone; register 0 discards it (10_state.md R21). -/
theorem onlyWritesReg_setReg (s : State) (r : Reg) (v : Word) :
    OnlyWritesReg s (s.setReg r v) r v := by
  have frame : SameOutsideRegs s (s.setReg r v) := by simp [SameOutsideRegs]
  exact ⟨setReg_getReg_same s r v, fun q hq => setReg_getReg_ne s r q v hq, rfl, rfl, frame⟩

/-- An instruction whose meaning is a result in a register only writes that register. -/
theorem exec_onlyWritesReg {i : Instr} {s : State} {r : Reg} {v : Word}
    (h : exec i s = writeResult s r v) : ∃ t, exec i s = .next t ∧ OnlyWritesReg s t r v :=
  ⟨s.setReg r v, h, onlyWritesReg_setReg s r v⟩

section
variable (s : State) (rC rA rB : Reg) (imm16 : BitVec 16)

theorem exec_and :
    exec (.and rC rA rB) s = writeResult s rC (s.getReg rA &&& s.getReg rB) := rfl

theorem exec_or :
    exec (.or rC rA rB) s = writeResult s rC (s.getReg rA ||| s.getReg rB) := rfl

theorem exec_xor :
    exec (.xor rC rA rB) s = writeResult s rC (s.getReg rA ^^^ s.getReg rB) := rfl

theorem exec_nor :
    exec (.nor rC rA rB) s = writeResult s rC (~~~(s.getReg rA ||| s.getReg rB)) := rfl

theorem exec_andhi :
    exec (.andhi rB rA imm16) s = writeResult s rB (s.getReg rA &&& imm16 ++ 0#16) := rfl

theorem exec_orhi :
    exec (.orhi rB rA imm16) s = writeResult s rB (s.getReg rA ||| imm16 ++ 0#16) := rfl

theorem exec_xorhi :
    exec (.xorhi rB rA imm16) s = writeResult s rB (s.getReg rA ^^^ imm16 ++ 0#16) := rfl

end

/-! ## The obligations -/

/-- Settles O16: the four rows of the R-type map, and each meaning as one register write. -/
theorem logicOfTwoRegisters : Obligations.LogicOfTwoRegisters := by
  refine ⟨decodesOpx_of_row fun _ => rfl, decodesOpx_of_row fun _ => rfl,
    decodesOpx_of_row fun _ => rfl, decodesOpx_of_row fun _ => rfl, fun s rC rA rB => ?_⟩
  exact ⟨exec_onlyWritesReg (exec_and s rC rA rB), exec_onlyWritesReg (exec_or s rC rA rB),
    exec_onlyWritesReg (exec_xor s rC rA rB), exec_onlyWritesReg (exec_nor s rC rA rB)⟩

/-- Settles O18: the three rows of the opcode map, and each meaning as one register write. -/
theorem logicWithHighImmediate : Obligations.LogicWithHighImmediate := by
  refine ⟨decodesOp_of_row fun _ => rfl, decodesOp_of_row fun _ => rfl,
    decodesOp_of_row fun _ => rfl, fun s rB rA imm16 => ?_⟩
  exact ⟨exec_onlyWritesReg (exec_andhi s rA rB imm16),
    exec_onlyWritesReg (exec_orhi s rA rB imm16), exec_onlyWritesReg (exec_xorhi s rA rB imm16)⟩

end Sys2Proof.Machine
end

section
/-! Addition (41_add_sub.md R150). The sum of the machine words is already modulo 2^32. -/

namespace Sys2Proof.Machine

/-- `add` is one register write of the wrapping sum. -/
theorem exec_add (s : State) (rC rA rB : Reg) :
    exec (.add rC rA rB) s = writeResult s rC (s.getReg rA + s.getReg rB) := rfl

/-- Settles O20: the row of the R-type map, the register write, and the number that the wrapping sum
stands for. -/
theorem addIsModulo32 : Obligations.AddIsModulo32 := by
  refine ⟨decodesOpx_of_row fun _ => rfl, fun s rC rA rB => ?_⟩
  obtain ⟨t, hnext, hwrites⟩ := exec_onlyWritesReg (exec_add s rC rA rB)
  exact ⟨t, s.getReg rA + s.getReg rB, hnext, hwrites, BitVec.toNat_add _ _⟩

end Sys2Proof.Machine
end

section
/-! Multiplication and division (42_multiply_divide.md R161, R163, R165). The high word and the low
word of a product are the two halves of the 64-bit word that stands for it, so what the two of them
make is a fact about 64-bit words, signed or unsigned. -/

namespace Sys2Proof.Machine

/-! ## The two words of a product -/

/-- The high word of an integer in front of its low word is its 64-bit two's complement. -/
theorem highWord_append_ofInt (p : Int) : highWord p ++ BitVec.ofInt 32 p = BitVec.ofInt 64 p := by
  apply BitVec.eq_of_toNat_eq
  have lowFits : (BitVec.ofInt 32 p).toNat < 2 ^ 32 := (BitVec.ofInt 32 p).isLt
  rw [BitVec.toNat_append, ← Nat.shiftLeft_add_eq_or_of_lt lowFits, Nat.shiftLeft_eq, highWord]
  simp only [BitVec.toNat_ofInt]
  omega

/-- The low word of the signed product is the machine's product. -/
theorem ofInt_toInt_mul_toInt {w : Nat} (x y : BitVec w) :
    BitVec.ofInt w (x.toInt * y.toInt) = x * y := by
  rw [BitVec.ofInt_mul, BitVec.ofInt_toInt, BitVec.ofInt_toInt]

/-- The low word of the unsigned product is the machine's product. -/
theorem ofInt_toNat_mul_toNat {w : Nat} (x y : BitVec w) :
    BitVec.ofInt w (x.toNat * y.toNat : Int) = x * y := by
  rw [BitVec.ofInt_mul, BitVec.ofInt_natCast, BitVec.ofInt_natCast, BitVec.ofNat_toNat,
    BitVec.ofNat_toNat, BitVec.setWidth_eq, BitVec.setWidth_eq]

/-- The signed product fits 64 bits, so the signed high word completes the low word to it (R161). -/
theorem highWord_append_mul_toInt (x y : Word) :
    (highWord (x.toInt * y.toInt) ++ x * y).toInt = x.toInt * y.toInt := by
  have lower : -2 ^ 62 ≤ x.toInt * y.toInt := BitVec.le_toInt_mul_toInt
  have upper : x.toInt * y.toInt ≤ 2 ^ 62 := BitVec.toInt_mul_toInt_le
  rw [← ofInt_toInt_mul_toInt x y, highWord_append_ofInt]
  exact BitVec.toInt_ofInt_eq_self (by decide) (by omega) (by omega)

/-- The unsigned product fits 64 bits, so the unsigned high word completes the low word to it
(R163). -/
theorem highWord_append_mul_toNat (x y : Word) :
    (highWord (x.toNat * y.toNat) ++ x * y).toNat = x.toNat * y.toNat := by
  have fits : x.toNat * y.toNat < 2 ^ 64 := BitVec.toNat_mul_toNat_lt
  rw [← ofInt_toNat_mul_toNat x y, highWord_append_ofInt, ← Int.natCast_mul, BitVec.ofInt_natCast,
    BitVec.toNat_ofNat, Nat.mod_eq_of_lt fits]

/-! ## The instructions -/

section
variable (s : State) (rC rA rB : Reg)

theorem exec_mulxss : exec (.mulxss rC rA rB) s =
    writeResult s rC (highWord ((s.getReg rA).toInt * (s.getReg rB).toInt)) := rfl

theorem exec_mulxuu : exec (.mulxuu rC rA rB) s =
    writeResult s rC (highWord ((s.getReg rA).toNat * (s.getReg rB).toNat)) := rfl

theorem exec_divu : exec (.divu rC rA rB) s =
    if s.getReg rB = 0#32 then .next s else writeResult s rC (s.getReg rA / s.getReg rB) := by
  rw [BitVec.udiv_def]
  rfl

end

/-! ## The obligations -/

/-- Settles O22: the two rows of the R-type map, each meaning as one register write, and the 64-bit
word that the written high word and the low word make. -/
theorem highWordOfSignedAndUnsignedProduct : Obligations.HighWordOfSignedAndUnsignedProduct := by
  refine ⟨decodesOpx_of_row fun _ => rfl, decodesOpx_of_row fun _ => rfl,
    fun s rC rA rB => ⟨?signed, ?unsigned⟩⟩
  case signed =>
    obtain ⟨t, hnext, hwrites⟩ := exec_onlyWritesReg (exec_mulxss s rC rA rB)
    exact ⟨t, _, hnext, hwrites, highWord_append_mul_toInt _ _⟩
  case unsigned =>
    obtain ⟨t, hnext, hwrites⟩ := exec_onlyWritesReg (exec_mulxuu s rC rA rB)
    exact ⟨t, _, hnext, hwrites, highWord_append_mul_toNat _ _⟩

/-- Settles O24: the row of the R-type map, and the two branches of the meaning, a zero divisor and
the rounded-down quotient. -/
theorem unsignedDivide : Obligations.UnsignedDivide := by
  refine ⟨decodesOpx_of_row fun _ => rfl,
    fun s rC rA rB => ⟨fun zeroDivisor => ?zero, fun divisor => ?quotient⟩⟩
  case zero => rw [exec_divu, if_pos zeroDivisor]
  case quotient =>
    have hexec : exec (.divu rC rA rB) s = writeResult s rC (s.getReg rA / s.getReg rB) := by
      rw [exec_divu, if_neg divisor]
    obtain ⟨t, hnext, hwrites⟩ := exec_onlyWritesReg hexec
    exact ⟨t, _, hnext, hwrites, BitVec.toNat_udiv⟩

end Sys2Proof.Machine
end

section
/-! The register compares (43_compare.md R180 to R185). Each is one register write of the truth value
of its relation, so the one rule for a written truth value serves all six. -/

namespace Sys2Proof.Machine

/-! ## A written truth value -/

/-- The truth value of a decided proposition as a word. -/
@[simp] theorem compareResult_decide (p : Prop) [Decidable p] :
    compareResult (decide p) = if p then 1#32 else 0#32 := by
  by_cases hp : p <;> simp [compareResult, hp]

/-- An instruction whose meaning is the truth value of `p` in a register only writes that register,
with 1 when `p` holds and 0 when not. -/
theorem exec_onlyWritesReg_of_compare {i : Instr} {s : State} {r : Reg} {p : Prop} [Decidable p]
    (h : exec i s = writeResult s r (compareResult (decide p))) :
    ∃ t, exec i s = .next t ∧ OnlyWritesReg s t r (if p then 1#32 else 0#32) := by
  rw [compareResult_decide] at h
  exact exec_onlyWritesReg h

/-! ## The instructions -/

section
variable (s : State) (rC rA rB : Reg)

theorem exec_cmpeq : exec (.cmpeq rC rA rB) s =
    writeResult s rC (compareResult (decide (s.getReg rA = s.getReg rB))) := rfl

theorem exec_cmpne : exec (.cmpne rC rA rB) s =
    writeResult s rC (compareResult (decide (s.getReg rA ≠ s.getReg rB))) := rfl

theorem exec_cmpge : exec (.cmpge rC rA rB) s =
    writeResult s rC (compareResult (decide ((s.getReg rA).toInt ≥ (s.getReg rB).toInt))) := rfl

theorem exec_cmpgeu : exec (.cmpgeu rC rA rB) s =
    writeResult s rC (compareResult (decide ((s.getReg rA).toNat ≥ (s.getReg rB).toNat))) := rfl

theorem exec_cmplt : exec (.cmplt rC rA rB) s =
    writeResult s rC (compareResult (decide ((s.getReg rA).toInt < (s.getReg rB).toInt))) := rfl

theorem exec_cmpltu : exec (.cmpltu rC rA rB) s =
    writeResult s rC (compareResult (decide ((s.getReg rA).toNat < (s.getReg rB).toNat))) := rfl

end

/-! ## The obligation -/

/-- Settles O26: the six rows of the R-type map, and each meaning as one write of a truth value. -/
theorem compareOfTwoRegisters : Obligations.CompareOfTwoRegisters := by
  refine ⟨decodesOpx_of_row fun _ => rfl, decodesOpx_of_row fun _ => rfl,
    decodesOpx_of_row fun _ => rfl, decodesOpx_of_row fun _ => rfl,
    decodesOpx_of_row fun _ => rfl, decodesOpx_of_row fun _ => rfl,
    fun s rC rA rB => ⟨?eq, ?ne, ?ge, ?geu, ?lt, ?ltu⟩⟩
  case eq => exact exec_onlyWritesReg_of_compare (exec_cmpeq s rC rA rB)
  case ne => exact exec_onlyWritesReg_of_compare (exec_cmpne s rC rA rB)
  case ge => exact exec_onlyWritesReg_of_compare (exec_cmpge s rC rA rB)
  case geu => exact exec_onlyWritesReg_of_compare (exec_cmpgeu s rC rA rB)
  case lt => exact exec_onlyWritesReg_of_compare (exec_cmplt s rC rA rB)
  case ltu => exact exec_onlyWritesReg_of_compare (exec_cmpltu s rC rA rB)

end Sys2Proof.Machine
end

section
/-! The shift and rotate instructions (44_shift_rotate.md R200 to R208). The model's rotates are the
library's for an amount below 32, and both sources of an amount, the low five bits of a register and
`IMM5`, give such an amount. Each meaning is one register write, so an obligation is the rows of the R-type
map, the equation of each instruction, and what the written word is. -/

namespace Sys2Proof.Machine

/-! ## The amount of a register -/

theorem shiftAmount_eq (v : Word) : shiftAmount v = v.toNat % 32 := by
  simp [shiftAmount]

theorem shiftAmount_lt (v : Word) : shiftAmount v < 32 := by
  rw [shiftAmount_eq]
  exact Nat.mod_lt _ (by decide)

/-! ## The rotates -/

/-- The model's case of amount 0 agrees with the general one, whose re-entering part is then zero. -/
theorem rotateLeftBy_eq_rotateLeft (v : Word) {n : Nat} (hn : n < 32) :
    rotateLeftBy v n = v.rotateLeft n := by
  rw [BitVec.rotateLeft_def, Nat.mod_eq_of_lt hn, rotateLeftBy]
  split
  case isTrue hzero => simp [hzero, BitVec.ushiftRight_eq_zero]
  case isFalse => rfl

theorem rotateRightBy_eq_rotateRight (v : Word) {n : Nat} (hn : n < 32) :
    rotateRightBy v n = v.rotateRight n := by
  rw [BitVec.rotateRight_def, Nat.mod_eq_of_lt hn, rotateRightBy]
  split
  case isTrue hzero => simp [hzero]
  case isFalse => rfl

/-- A left rotate takes bit `k` to bit `k + n`, around the word (R200). -/
theorem getLsbD_rotateLeftBy (v : Word) {n k : Nat} (hn : n < 32) (hk : k < 32) :
    (rotateLeftBy v n).getLsbD ((k + n) % 32) = v.getLsbD k := by
  rw [rotateLeftBy_eq_rotateLeft v hn, BitVec.getLsbD_rotateLeft, Nat.mod_eq_of_lt hn]
  by_cases stays : k + n < 32
  · simp [Nat.mod_eq_of_lt stays, stays]
  · have reenters : (k + n) % 32 = k + n - 32 := by omega
    have source : 32 - n + (k + n - 32) = k := by omega
    have low : k + n - 32 < n := by omega
    simp [reenters, low, source]

/-- A right rotate takes bit `k + n`, around the word, to bit `k` (R202). -/
theorem getLsbD_rotateRightBy (v : Word) {n k : Nat} (hn : n < 32) (hk : k < 32) :
    (rotateRightBy v n).getLsbD k = v.getLsbD ((k + n) % 32) := by
  rw [rotateRightBy_eq_rotateRight v hn, BitVec.getLsbD_rotateRight, Nat.mod_eq_of_lt hn]
  by_cases stays : k + n < 32
  · have low : k < 32 - n := by omega
    simp [Nat.mod_eq_of_lt stays, low, Nat.add_comm n k]
  · have reenters : (k + n) % 32 = k - (32 - n) := by omega
    have high : ¬ k < 32 - n := by omega
    simp [reenters, high, hk]

/-! ## The shifts -/

/-- A left shift takes bit `k - n` to bit `k`, and zeros enter below (R203). -/
theorem getLsbD_shiftLeft_eq_and (v : Word) (n : Nat) {k : Nat} (hk : k < 32) :
    (v <<< n).getLsbD k = (decide (n ≤ k) && v.getLsbD (k - n)) := by
  simp only [BitVec.getLsbD_shiftLeft, hk, decide_true, Bool.true_and, ← decide_not, Nat.not_lt]

/-- A logical right shift takes bit `k + n` to bit `k`, and zeros enter above (R205). -/
theorem getLsbD_ushiftRight_eq_and (v : Word) (n k : Nat) :
    (v >>> n).getLsbD k = (decide (k + n < 32) && v.getLsbD (k + n)) := by
  rw [BitVec.getLsbD_ushiftRight, Nat.add_comm n k]
  by_cases inside : k + n < 32
  · simp [inside]
  · simp [inside, BitVec.getLsbD_of_ge v (k + n) (by omega)]

/-- An arithmetic right shift is the signed quotient rounded down (R207). -/
theorem toInt_sshiftRight_eq_div (v : Word) (n : Nat) :
    (v.sshiftRight n).toInt = v.toInt / 2 ^ n := by
  rw [BitVec.toInt_sshiftRight, Int.shiftRight_eq_div_pow, Nat.cast_pow, Nat.cast_ofNat]

/-! ## The instructions -/

/-- An instruction that writes a result with the property `P` only writes a word with it. -/
theorem exec_onlyWritesReg_of_result {i : Instr} {s : State} {r : Reg} {v : Word} {P : Word → Prop}
    (h : exec i s = writeResult s r v) (hv : P v) :
    ∃ t v, exec i s = .next t ∧ OnlyWritesReg s t r v ∧ P v := by
  obtain ⟨t, hnext, hwrites⟩ := exec_onlyWritesReg h
  exact ⟨t, v, hnext, hwrites, hv⟩

section
variable (s : State) (rC rA rB : Reg) (imm5 : BitVec 5)

theorem exec_rol : exec (.rol rC rA rB) s =
    writeResult s rC (rotateLeftBy (s.getReg rA) (shiftAmount (s.getReg rB))) := rfl

theorem exec_ror : exec (.ror rC rA rB) s =
    writeResult s rC (rotateRightBy (s.getReg rA) (shiftAmount (s.getReg rB))) := rfl

theorem exec_sll : exec (.sll rC rA rB) s =
    writeResult s rC (s.getReg rA <<< shiftAmount (s.getReg rB)) := rfl

theorem exec_srl : exec (.srl rC rA rB) s =
    writeResult s rC (s.getReg rA >>> shiftAmount (s.getReg rB)) := rfl

theorem exec_sra : exec (.sra rC rA rB) s =
    writeResult s rC ((s.getReg rA).sshiftRight (shiftAmount (s.getReg rB))) := rfl

theorem exec_roli : exec (.roli rC rA imm5) s =
    writeResult s rC (rotateLeftBy (s.getReg rA) imm5.toNat) := rfl

theorem exec_slli : exec (.slli rC rA imm5) s =
    writeResult s rC (s.getReg rA <<< imm5.toNat) := rfl

theorem exec_srli : exec (.srli rC rA imm5) s =
    writeResult s rC (s.getReg rA >>> imm5.toNat) := rfl

theorem exec_srai : exec (.srai rC rA imm5) s =
    writeResult s rC ((s.getReg rA).sshiftRight imm5.toNat) := rfl

end

/-! ## The obligations -/

/-- Settles O28: the five rows of the R-type map, and each meaning as one register write of the word
rotated or shifted by the low five bits of the register. -/
theorem shiftAndRotateByRegister : Obligations.ShiftAndRotateByRegister := by
  refine ⟨decodesOpx_of_row fun _ => rfl, decodesOpx_of_row fun _ => rfl,
    decodesOpx_of_row fun _ => rfl, decodesOpx_of_row fun _ => rfl,
    decodesOpx_of_row fun _ => rfl, fun s rC rA rB n amount => ?_⟩
  rw [← shiftAmount_eq] at amount
  subst amount
  have hn := shiftAmount_lt (s.getReg rB)
  refine ⟨?rol, ?ror, ?sll, ?srl, ?sra⟩
  case rol =>
    exact exec_onlyWritesReg_of_result (exec_rol s rC rA rB) fun _ => getLsbD_rotateLeftBy _ hn
  case ror =>
    exact exec_onlyWritesReg_of_result (exec_ror s rC rA rB) fun _ => getLsbD_rotateRightBy _ hn
  case sll =>
    exact exec_onlyWritesReg_of_result (exec_sll s rC rA rB) fun _ => getLsbD_shiftLeft_eq_and _ _
  case srl =>
    exact exec_onlyWritesReg_of_result (exec_srl s rC rA rB) fun k _ =>
      getLsbD_ushiftRight_eq_and _ _ k
  case sra =>
    exact exec_onlyWritesReg_of_result (exec_sra s rC rA rB) (toInt_sshiftRight_eq_div _ _)

/-- Settles O29: the four rows of the R-type map, and each meaning as one register write of the word
rotated or shifted by `IMM5`. -/
theorem shiftAndRotateByImmediate : Obligations.ShiftAndRotateByImmediate := by
  refine ⟨decodesOpx_of_row fun _ => rfl, decodesOpx_of_row fun _ => rfl,
    decodesOpx_of_row fun _ => rfl, decodesOpx_of_row fun _ => rfl,
    fun s rC rA imm5 => ⟨?roli, ?slli, ?srli, ?srai⟩⟩
  case roli =>
    have hn : imm5.toNat < 32 := imm5.isLt
    exact exec_onlyWritesReg_of_result (exec_roli s rC rA imm5) fun _ => getLsbD_rotateLeftBy _ hn
  case slli =>
    refine exec_onlyWritesReg_of_result (exec_slli s rC rA imm5) ?_
    rw [BitVec.toNat_shiftLeft, Nat.shiftLeft_eq]
  case srli =>
    refine exec_onlyWritesReg_of_result (exec_srli s rC rA imm5) ?_
    rw [BitVec.toNat_ushiftRight, Nat.shiftRight_eq_div_pow]
  case srai =>
    exact exec_onlyWritesReg_of_result (exec_srai s rC rA imm5) (toInt_sshiftRight_eq_div _ _)

end Sys2Proof.Machine
end

section
/-! The call depth (45_control_flow.md R235). What each shared operation does to it is said once: a call
adds one when its target is aligned, and the others keep it. The obligation is then a case for each
constructor of the instructions, the constructors grouped by the operation their meaning ends in. -/

namespace Sys2Proof.Machine

variable {s t : State}

/-! ## The shared operations that keep the depth -/

theorem writeResult_callStackSize {r : Reg} {v : Word} (h : writeResult s r v = .next t) :
    t.callStackSize = s.callStackSize := by
  rw [writeResult_next h, setReg_callStackSize]

theorem next_callStackSize {u : State} (h : (.next u : StepOutcome) = .next t) :
    t.callStackSize = u.callStackSize := by
  injection h with h
  rw [h]

/-- Taken or not, a transfer that is no call keeps the depth (R223). -/
theorem transfer_callStackSize {a : Word} (h : transfer s a = .next t) :
    t.callStackSize = s.callStackSize := by
  obtain ⟨-, rfl⟩ | ⟨-, rfl⟩ := checkTarget_next h
  · exact setPc_callStackSize s a
  · exact takeException_callStackSize s s.ipc

theorem branchIf_callStackSize {holds : Bool} {imm16 : BitVec 16}
    (h : branchIf s holds imm16 = .next t) : t.callStackSize = s.callStackSize := by
  rw [branchIf_eq] at h
  split at h
  · exact transfer_callStackSize h
  · exact next_callStackSize h

/-- A load ends in a fatal error, a read of RAM or a device read; none of them is a call or a return
(47_load_store.md R280). -/
theorem loadInto_callStackSize {rB : Reg} {ea : Word} {size : Size} {io : Bool} {ext : Word → Word}
    (h : loadInto s rB ea size io ext = .next t) : t.callStackSize = s.callStackSize := by
  obtain ⟨why, rfl⟩ | ⟨-, rfl⟩ | ⟨k, r, -, -, -, rfl⟩ := loadInto_next h
  · rw [raiseFatal_callStackSize]
  · rw [setReg_callStackSize, emit_callStackSize]
  · rw [setReg_callStackSize, applyDevice_callStackSize, emit_callStackSize]

theorem storeFrom_callStackSize {rB : Reg} {ea : Word} {size : Size} {io : Bool}
    (h : storeFrom s rB ea size io = .next t) : t.callStackSize = s.callStackSize := by
  obtain ⟨why, rfl⟩ | ⟨-, rfl⟩ | ⟨k, r, d, -, -, -, -, rfl⟩ := storeFrom_next h
  · rw [raiseFatal_callStackSize]
  · exact emit_callStackSize s (accessEvents s .store ea io)
  · rw [applyDevice_callStackSize, emit_callStackSize]

theorem unimplemented_callStackSize (h : unimplemented s = .next t) :
    t.callStackSize = s.callStackSize :=
  (next_callStackSize h).trans (takeException_callStackSize s s.ipc)

/-! ## The instructions with more than one ending -/

theorem execDiv_callStackSize {rC rA rB : Reg} (h : execDiv rC rA rB s = .next t) :
    t.callStackSize = s.callStackSize := by
  unfold execDiv at h
  split at h
  · exact next_callStackSize h
  · split at h
    · rw [writeResult_callStackSize h, useFree_callStackSize]
    · exact writeResult_callStackSize h

theorem execDivu_callStackSize {rC rA rB : Reg} (h : execDivu rC rA rB s = .next t) :
    t.callStackSize = s.callStackSize := by
  unfold execDivu at h
  split at h
  · exact next_callStackSize h
  · exact writeResult_callStackSize h

theorem execMuli_callStackSize {rB rA : Reg} {imm16 : BitVec 16}
    (h : execMuli rB rA imm16 s = .next t) : t.callStackSize = s.callStackSize := by
  unfold execMuli at h
  split at h
  · exact unimplemented_callStackSize h
  · exact writeResult_callStackSize h

theorem execNextpc_callStackSize {rC : Reg} (h : execNextpc rC s = .next t) :
    t.callStackSize = s.callStackSize := by
  unfold execNextpc at h
  split at h
  · exact unimplemented_callStackSize h
  · exact writeResult_callStackSize h

/-- Both choices for trap are the same exception (46_control_regs_system.md R269). -/
theorem execTrap_callStackSize (h : execTrap s = .next t) :
    t.callStackSize = s.callStackSize := by
  unfold execTrap at h
  split at h <;> exact unimplemented_callStackSize h

/-- Only the exception completes; the architectural break is refused (R270; log 10). -/
theorem execBrk_callStackSize (h : execBrk s = .next t) : t.callStackSize = s.callStackSize := by
  unfold execBrk at h
  split at h
  · exact unimplemented_callStackSize h
  · cases h

/-! ## Calls -/

/-- A call counts exactly when its target passes the alignment check (R224, R225). -/
theorem callTo_callStackSize {a : Word} (h : callTo s a = .next t) :
    t.callStackSize = s.callStackSize + if a.toNat % 4 = 0 then 1 else 0 := by
  obtain ⟨ha, rfl⟩ | ⟨ha, rfl⟩ := checkTarget_next h
  · rw [if_pos ha, notifyCall_callStackSize, setPc_callStackSize, setReg_callStackSize]
  · rw [if_neg ha, takeException_callStackSize, add_zero]

/-- The target of call and jmpi ends in two zero bits, so its check always passes (R221, R224). -/
theorem jumpTarget_aligned (s : State) (imm26 : BitVec 26) :
    (s.jumpTarget imm26).toNat % 4 = 0 := by
  rw [State.jumpTarget, BitVec.toNat_append, BitVec.toNat_zero, Nat.or_zero, Nat.shiftLeft_eq]
  exact Nat.mul_mod_left _ 4

/-! ## The obligation -/

/-- Settles O35: a case for each instruction, grouped by the shared operation that its meaning ends
in. -/
theorem onlyCallsAndRetChangeTheCallDepth : Obligations.OnlyCallsAndRetChangeTheCallDepth := by
  refine ⟨fun i s t h => ?_, takeException_callStackSize⟩
  cases i with
  | call imm26 => rw [callTo_callStackSize h, if_pos (jumpTarget_aligned s imm26)]
  | callr rA => exact callTo_callStackSize h
  | ret =>
    rw [next_callStackSize h, notifyReturn_callStackSize, setPc_callStackSize, Int.sub_eq_add_neg]
  | and | or | xor | nor | andi | ori | xori | andhi | orhi | xorhi
  | add | addi | sub | mul | mulxss | mulxsu | mulxuu
  | cmpeq | cmpne | cmpge | cmpgeu | cmplt | cmpltu
  | cmpeqi | cmpnei | cmpgei | cmpgeui | cmplti | cmpltui
  | rol | roli | ror | sll | slli | srl | srli | sra | srai | rdctl =>
    rw [writeResult_callStackSize h, add_zero]
  | jmp | jmpi | br => rw [transfer_callStackSize h, add_zero]
  | beq | bne | bge | bgeu | blt | bltu => rw [branchIf_callStackSize h, add_zero]
  | ldb | ldbu | ldh | ldhu | ldw | ldbio | ldbuio | ldhio | ldhuio | ldwio =>
    rw [loadInto_callStackSize h, add_zero]
  | stb | stbio => rw [storeFrom_callStackSize (size := .byte) h, add_zero]
  | sth | sthio | stw | stwio => rw [storeFrom_callStackSize h, add_zero]
  | eret => rw [next_callStackSize h, returnFromException_callStackSize, add_zero]
  | wrctl => rw [next_callStackSize h, setCtl_callStackSize, add_zero]
  | bret | sync | flushp | flushi | flushd | flushda | initi | initd | initda =>
    rw [next_callStackSize h, add_zero]
  | custom | rdprs | wrprs => rw [unimplemented_callStackSize h, add_zero]
  | div => rw [execDiv_callStackSize h, add_zero]
  | divu => rw [execDivu_callStackSize h, add_zero]
  | muli => rw [execMuli_callStackSize h, add_zero]
  | nextpc => rw [execNextpc_callStackSize h, add_zero]
  | trap => rw [execTrap_callStackSize h, add_zero]
  | brk => rw [execBrk_callStackSize h, add_zero]

end Sys2Proof.Machine
end

section
/-! The halt decision (62_debug_stepping.md R435). Its two questions about the address, and its answer
in each mode, are said once; the modes that never ask about statements share the breakpoint alone. -/

namespace Sys2Proof.Machine

variable {s : State} {a : Word}

/-! ## The two questions about an address -/

theorem hasBreakpoint_eq_decide (s : State) (a : Word) :
    s.hasBreakpoint a = decide (0 < s.bp.count a) := rfl

theorem isStatement_eq_decide (s : State) (a : Word) :
    s.isStatement a = decide (a ∈ s.cfg.stmtAddrs) := List.contains_eq_mem a s.cfg.stmtAddrs

/-! ## The answer in each mode (R435) -/

theorem shouldHalt_of_continue (hm : s.debuggingState = .continue_) :
    s.shouldHalt a = s.hasBreakpoint a := by rw [State.shouldHalt, hm]

theorem shouldHalt_of_stepReturn (hm : s.debuggingState = .stepReturn) :
    s.shouldHalt a = s.hasBreakpoint a := by rw [State.shouldHalt, hm]

theorem shouldHalt_of_stepOver (hm : s.debuggingState = .stepOver) :
    s.shouldHalt a =
      (s.hasBreakpoint a || (decide (s.callStackSize < s.stepFrame) && s.isStatement a)) := by
  rw [State.shouldHalt, hm]

theorem shouldHalt_of_stepInto (hm : s.debuggingState = .stepInto) :
    s.shouldHalt a = (s.hasBreakpoint a || s.isStatement a) := by rw [State.shouldHalt, hm]

theorem shouldHalt_of_stepInstruction (hm : s.debuggingState = .stepInstruction) :
    s.shouldHalt a = true := by rw [State.shouldHalt, hm]

/-! ## The obligation -/

/-- Settles O51: a case for each mode; what is left is that the Boolean connectives of the answer are
the decisions of the propositional ones. -/
theorem shouldHaltInEachMode : Obligations.ShouldHaltInEachMode := by
  intro s a
  refine ⟨fun hm => ?continue_, fun hm => ?stepReturn, fun hm => ?stepOver, fun hm => ?stepInto,
    fun hm => ?stepInstruction⟩
  case continue_ => rw [shouldHalt_of_continue hm, hasBreakpoint_eq_decide]
  case stepReturn => rw [shouldHalt_of_stepReturn hm, hasBreakpoint_eq_decide]
  case stepOver =>
    rw [shouldHalt_of_stepOver hm, hasBreakpoint_eq_decide, isStatement_eq_decide,
      Bool.decide_or, Bool.decide_and]
  case stepInto =>
    rw [shouldHalt_of_stepInto hm, hasBreakpoint_eq_decide, isStatement_eq_decide, Bool.decide_or]
  case stepInstruction => exact shouldHalt_of_stepInstruction hm

end Sys2Proof.Machine
end

section
/-! Encoding and decoding (30_encoding.md R101 to R109). A row of an opcode map gives the
instruction of an encoded word, whatever its operands; and which row a word has, or that it has
none, depends on `OP` and `OPX` alone, so what is asked of the rows is asked of the 64 values of
each field. -/

namespace Sys2Proof

/-! ## Encoded words -/

/-- A row of the opcode map is read back from an I-type word. -/
theorem decodeWord_encodeIType {op : BitVec 6} {f : Word → Instr}
    (row : ∀ w, decodeOp op w = .ok (f w)) (a b : Reg) (imm16 : BitVec 16) :
    decodeWord (encodeIType op a b imm16) = .ok (f (encodeIType op a b imm16)) := by
  rw [decodeWord, opField_encodeIType, row]

/-- A row of the R-type map is read back from an R-type word. -/
theorem decodeWord_encodeRType {opx : BitVec 6} {f : Word → Instr}
    (row : ∀ w, decodeRType opx w = .ok (f w)) (a b c : Reg) (imm5 : BitVec 5) :
    decodeWord (encodeRType opx a b c imm5) = .ok (f (encodeRType opx a b c imm5)) := by
  have rType : ∀ w, decodeOp 0x3A#6 w = decodeRType (opxField w) w := fun _ => rfl
  rw [decodeWord, opField_encodeRType, rType, opxField_encodeRType, row]

theorem decodeWord_encodeJType {op : BitVec 6} {f : Word → Instr}
    (row : ∀ w, decodeOp op w = .ok (f w)) (imm26 : BitVec 26) :
    decodeWord (encodeJType op imm26) = .ok (f (encodeJType op imm26)) := by
  rw [decodeWord, opField_encodeJType, row]

theorem decodeWord_encodeCustom {op : BitVec 6} {f : Word → Instr}
    (row : ∀ w, decodeOp op w = .ok (f w)) (a b c : Reg) (n : BitVec 11) :
    decodeWord (encodeCustom op a b c n) = .ok (f (encodeCustom op a b c n)) := by
  rw [decodeWord, opField_encodeCustom, row]

@[simp] theorem ctlField_encodeRType (opx : BitVec 6) (a b c : Reg) (imm5 : BitVec 5) :
    ctlField (encodeRType opx a b c imm5) = imm5.toFin := by
  rw [ctlField, imm5Field_encodeRType]

/-- Settles O1: a case for each instruction, grouped by the format of its word; the row gives the
instruction, and the fields of the word give its operands. -/
theorem decodeOfEncodeIsTheInstruction : Obligations.DecodeOfEncodeIsTheInstruction := by
  intro i
  cases i with
  | and | or | xor | nor | add | sub | mul | mulxss | mulxsu | mulxuu | div | divu
  | cmpeq | cmpne | cmpge | cmpgeu | cmplt | cmpltu | rol | roli | ror | sll | slli | srl | srli
  | sra | srai | jmp | callr | ret | eret | bret | rdctl | wrctl | sync | flushp | flushi | initi
  | wrprs | nextpc | trap | brk =>
    exact (decodeWord_encodeRType (fun _ => rfl) _ _ _ _).trans (by simp)
  | andi | ori | xori | andhi | orhi | xorhi | addi
  | cmpeqi | cmpnei | cmpgei | cmpgeui | cmplti | cmpltui
  | br | beq | bne | bge | bgeu | blt | bltu | flushd | flushda | initd | initda | rdprs | muli
  | ldb | ldbu | ldh | ldhu | ldw | ldbio | ldbuio | ldhio | ldhuio | ldwio
  | stb | sth | stw | stbio | sthio | stwio =>
    exact (decodeWord_encodeIType (fun _ => rfl) _ _ _).trans (by simp)
  | jmpi | call => exact (decodeWord_encodeJType (fun _ => rfl) _).trans (by simp)
  | custom => exact (decodeWord_encodeCustom (fun _ => rfl) _ _ _ _).trans (by simp)

/-- Settles O2: the bytes of a word decode as the word does. -/
theorem encodedBytesDecodeInFrontOfAnyRest : Obligations.EncodedBytesDecodeInFrontOfAnyRest := by
  intro i rest
  rw [decodeBytes_bytesOfWord, decodeTableWord_toNat, decodeOfEncodeIsTheInstruction i]
  exact ⟨rfl, rfl⟩

/-! ## Rows -/

/-- The row of the R-type map is a matter of `OPX`. -/
theorem decodeRType_ctorIdx (opx : BitVec 6) (w v : Word) :
    (decodeRType opx w).map Instr.ctorIdx = (decodeRType opx v).map Instr.ctorIdx := by
  unfold decodeRType
  split <;> rfl

/-- The row of the opcode map is a matter of `OP`, but for the R-type map's. -/
theorem decodeOp_ctorIdx (op : BitVec 6) (w v : Word)
    (h : op = 0x3A#6 → opxField w = opxField v) :
    (decodeOp op w).map Instr.ctorIdx = (decodeOp op v).map Instr.ctorIdx := by
  by_cases rType : op = 0x3A#6
  · subst rType
    change (decodeRType (opxField w) w).map _ = (decodeRType (opxField v) v).map _
    rw [h rfl]
    exact decodeRType_ctorIdx _ w v
  · unfold decodeOp
    split <;> first | exact absurd rfl rType | rfl

/-- Settles O3: the rows of both maps. -/
theorem onlyOpAndOpxSelectTheInstruction : Obligations.OnlyOpAndOpxSelectTheInstruction := by
  intro w v hop hopx
  rw [decodeWord, decodeWord, ← hop]
  exact decodeOp_ctorIdx _ w v hopx

/-! ## Unassigned values (R109) -/

/-- The `OP` values with no row in the opcode map. -/
def unassignedOps : List Nat :=
  [0x02, 0x09, 0x0A, 0x11, 0x12, 0x19, 0x1A, 0x1D, 0x1F, 0x21, 0x22, 0x29, 0x2A, 0x31, 0x39, 0x3D,
    0x3E, 0x3F]

/-- The `OPX` values with no row in the R-type map. -/
def unassignedOpxs : List Nat :=
  [0x00, 0x0A, 0x0F, 0x11, 0x15, 0x19, 0x21, 0x22, 0x23, 0x2A, 0x2B, 0x2C, 0x2F, 0x32, 0x33, 0x35,
    0x37, 0x38, 0x3C, 0x3D, 0x3E, 0x3F]

theorem exists_error_iff {x : Except DecodeError Instr} :
    (∃ e, x = .error e) ↔ x.isOk = false := by
  cases x <;> simp [Except.isOk, Except.toBool]

/-- Words of one row are refused or accepted alike. -/
theorem isOk_of_ctorIdx {x y : Except DecodeError Instr}
    (h : x.map Instr.ctorIdx = y.map Instr.ctorIdx) : x.isOk = y.isOk := by
  have mapped : ∀ z : Except DecodeError Instr, (z.map Instr.ctorIdx).isOk = z.isOk := fun z => by
    cases z <;> rfl
  rw [← mapped x, ← mapped y, h]

/-- The R-type map is asked at the word 0 for every word. -/
theorem decodeRType_error_iff (opx : BitVec 6) (w : Word) :
    (∃ e, decodeRType opx w = .error e) ↔ opx.toNat ∈ unassignedOpxs := by
  rw [exists_error_iff, isOk_of_ctorIdx (decodeRType_ctorIdx opx w 0#32)]
  revert opx
  decide

/-- The opcode map is asked at the word 0 for every word, but for the R-type map's. -/
theorem decodeOp_error_iff (op : BitVec 6) (w : Word) (h : op ≠ 0x3A#6) :
    (∃ e, decodeOp op w = .error e) ↔ op.toNat ∈ unassignedOps := by
  rw [exists_error_iff, isOk_of_ctorIdx (decodeOp_ctorIdx op w 0#32 fun rType => absurd rType h)]
  revert op
  decide

theorem decodeWord_error_iff (w : Word) :
    (∃ e, decodeWord w = .error e) ↔
      (opField w).toNat ∈ unassignedOps ∨
        ((opField w).toNat = 0x3A ∧ (opxField w).toNat ∈ unassignedOpxs) := by
  by_cases rType : opField w = 0x3A#6
  · have map : decodeWord w = decodeRType (opxField w) w := by rw [decodeWord, rType]; rfl
    have assigned : 0x3A ∉ unassignedOps := by decide
    rw [map, decodeRType_error_iff, rType]
    simp [assigned]
  · have other : (opField w).toNat ≠ 0x3A := fun h => rType (BitVec.eq_of_toNat_eq h)
    rw [decodeWord, decodeOp_error_iff _ w rType]
    simp [other]

/-- Settles O5: the sample words are decoded. -/
theorem sampleWordsDecode : Obligations.SampleWordsDecode := by
  exact ⟨rfl, rfl, rfl, rfl, rfl, rfl, rfl, rfl, rfl, rfl⟩

end Sys2Proof
end

section
/-! Exceptions and the unlisted instructions (60_exceptions.md R313 to R315; 45_control_flow.md
R233; 46_control_regs_system.md R261 to R270). What each accessor reads after the exception issue
and after the return from it is said once; an instruction that takes the exception is the issue at
its own address. -/

namespace Sys2Proof.Machine

variable (s : State) (p : Word)

/-! ## What the accessors read after the exception issue (R313) -/

theorem takeException_getCtl_zero :
    (s.takeException p).getCtl 0 = s.getCtl 0 &&& 0xFFFFFFFE#32 := by
  simp [State.getCtl]

theorem takeException_getCtl_one : (s.takeException p).getCtl 1 = s.getCtl 0 := by
  simp [State.getCtl]

theorem takeException_getCtl_ne {n : CtlReg} (h0 : n ≠ 0) (h1 : n ≠ 1) :
    (s.takeException p).getCtl n = s.getCtl n := by
  have h0 : (0 : Nat) ≠ n := fun e => h0 (Fin.ext e.symm)
  have h1 : (1 : Nat) ≠ n := fun e => h1 (Fin.ext e.symm)
  simp [State.getCtl, State.ipending, Vector.getElem_set_ne, h0, h1]

theorem takeException_getReg_ea : (s.takeException p).getReg 29 = p + 4#32 := by
  simp [State.getReg]

theorem takeException_getReg_ne {q : Reg} (h : q ≠ 29) :
    (s.takeException p).getReg q = s.getReg q := by
  have h : (29 : Nat) ≠ q := fun e => h (Fin.ext e.symm)
  simp [State.getReg, Vector.getElem_set_ne, h]

/-- Settles O13: each accessor and each field after the exception issue. -/
theorem exceptionIssueSavesStatusAndReturnAddress :
    Obligations.ExceptionIssueSavesStatusAndReturnAddress := by
  intro s p
  exact ⟨takeException_getCtl_one s p, takeException_getCtl_zero s p, takeException_getReg_ea s p,
    rfl, fun _ hq => takeException_getReg_ne s p hq,
    fun _ h0 h1 => takeException_getCtl_ne s p h0 h1,
    fun _ => rfl, rfl, rfl, rfl, rfl, rfl, rfl, rfl, rfl, rfl, rfl, rfl, rfl, rfl⟩

/-! ## What the accessors read after the return from an exception (R233) -/

theorem returnFromException_getCtl_zero : s.returnFromException.getCtl 0 = s.getCtl 1 := by
  simp [State.getCtl]

theorem returnFromException_getCtl_ne {n : CtlReg} (h : n ≠ 0) :
    s.returnFromException.getCtl n = s.getCtl n := by
  have h : (0 : Nat) ≠ n := fun e => h (Fin.ext e.symm)
  simp [State.getCtl, State.ipending, Vector.getElem_set_ne, h]

/-- Settles O15: the row of the R-type map, and the return from an exception, also right after the
issue of one. -/
theorem eretRestoresStatusAndJumpsToEa : Obligations.EretRestoresStatusAndJumpsToEa := by
  refine ⟨decodesOpx_of_row fun _ => rfl, fun s => ?returns, fun s p => ?after⟩
  case returns =>
    refine ⟨s.returnFromException, rfl, rfl, returnFromException_getCtl_zero s,
      fun _ hn => returnFromException_getCtl_ne s hn, fun _ => rfl, rfl, ?_⟩
    simp [SameOutsideRegs, State.getCtl, State.ipending]
  case after =>
    refine ⟨(s.takeException p).returnFromException, rfl, ?_, takeException_getReg_ea s p⟩
    rw [returnFromException_getCtl_zero, takeException_getCtl_one]

/-! ## Instructions that take the exception -/

/-- Settles O4: the unassigned values, and the exception issue at the word's own address. -/
theorem unassignedEncodingsTakeTheException : Obligations.UnassignedEncodingsTakeTheException := by
  intro w
  refine ⟨decodeWord_error_iff w, ?_⟩
  rintro ⟨e, he⟩ s
  exact ⟨_, executeWord_error he, exceptionIssueSavesStatusAndReturnAddress s s.ipc⟩

/-- The exception of the executing instruction is issued at its own address (R261, R314). -/
theorem unimplemented_issues :
    ∃ t, unimplemented s = .next t ∧ ExceptionIssued s t (s.pc - 4#32) :=
  ⟨_, rfl, exceptionIssueSavesStatusAndReturnAddress s s.ipc⟩

theorem exec_issues {i : Instr} {s : State} (h : exec i s = unimplemented s) :
    ∃ t, exec i s = .next t ∧ ExceptionIssued s t (s.pc - 4#32) := by
  rw [h]
  exact unimplemented_issues s

section
variable {s} (rA rB rC : Reg) (n : BitVec 11) (imm16 : BitVec 16)

theorem exec_custom : exec (.custom n rC rA rB) s = unimplemented s := rfl

theorem exec_rdprs : exec (.rdprs rB rA imm16) s = unimplemented s := rfl

theorem exec_wrprs : exec (.wrprs rC rA) s = unimplemented s := rfl

/-- Both choices for trap are the same exception (R269). -/
theorem exec_trap : exec .trap s = unimplemented s := by
  change execTrap s = _
  unfold execTrap
  cases s.cfg.unlisted.trap <;> rfl

theorem exec_muli_exception (h : s.cfg.unlisted.muli = .exception) :
    exec (.muli rB rA imm16) s = unimplemented s := by
  change execMuli rB rA imm16 s = _
  rw [execMuli, h]

theorem exec_muli_architectural (h : s.cfg.unlisted.muli = .architectural) :
    exec (.muli rB rA imm16) s = writeResult s rB (s.getReg rA * sext16 imm16) := by
  change execMuli rB rA imm16 s = _
  rw [execMuli, h]

theorem exec_nextpc_exception (h : s.cfg.unlisted.nextpc = .exception) :
    exec (.nextpc rC) s = unimplemented s := by
  change execNextpc rC s = _
  rw [execNextpc, h]

theorem exec_nextpc_architectural (h : s.cfg.unlisted.nextpc = .architectural) :
    exec (.nextpc rC) s = writeResult s rC s.pc := by
  change execNextpc rC s = _
  rw [execNextpc, h]

theorem exec_brk_exception (h : s.cfg.unlisted.brk = .exception) :
    exec .brk s = unimplemented s := by
  change execBrk s = _
  rw [execBrk, h]

theorem exec_brk_architectural (h : s.cfg.unlisted.brk = .architectural) :
    exec .brk s = .refused .breakNotModelled := by
  change execBrk s = _
  rw [execBrk, h]

end

/-- The signed immediate is the same number in 32 bits (30_encoding.md R106). -/
theorem sext16_toInt (imm16 : BitVec 16) : (sext16 imm16).toInt = imm16.toInt :=
  BitVec.toInt_signExtend_of_le (by decide)

/-- Settles O14: the seven rows, the instructions that always take the exception, and a case for
each choice of the others. -/
theorem unimplementedInstructionsTakeTheException :
    Obligations.UnimplementedInstructionsTakeTheException := by
  refine ⟨decodesOp_of_row fun _ => rfl, decodesOp_of_row fun _ => rfl,
    decodesOpx_of_row fun _ => rfl, decodesOpx_of_row fun _ => rfl, decodesOp_of_row fun _ => rfl,
    decodesOpx_of_row fun _ => rfl, decodesOpx_of_row fun _ => rfl, fun s rA rB rC n imm16 => ?_⟩
  refine ⟨exec_issues (exec_custom rA rB rC n), exec_issues (exec_rdprs rA rB imm16),
    exec_issues (exec_wrprs rA rC), exec_issues exec_trap,
    fun h => exec_issues (exec_muli_exception rA rB imm16 h), fun h => ?multiplies,
    fun h => exec_issues (exec_nextpc_exception rC h),
    fun h => exec_onlyWritesReg (exec_nextpc_architectural rC h),
    fun h => exec_issues (exec_brk_exception h), exec_brk_architectural⟩
  case multiplies =>
    refine exec_onlyWritesReg_of_result (exec_muli_architectural rA rB imm16 h) ?_
    rw [← sext16_toInt, ofInt_toInt_mul_toInt]

end Sys2Proof.Machine
end

section
/-! The immediate forms of logic, addition and comparison (30_encoding.md R106; 40_logic.md R134
to R140; 41_add_sub.md; 43_compare.md R186 to R191), and the remaining products and quotients
(42_multiply_divide.md R160, R162, R164). Each meaning is one register write; an extended
immediate is the number that its 16 bits stand for. -/

namespace Sys2Proof.Machine

/-! ## The instructions -/

section
variable (s : State) (rC rA rB : Reg) (imm16 : BitVec 16)

theorem exec_andi :
    exec (.andi rB rA imm16) s = writeResult s rB (s.getReg rA &&& zext16 imm16) := rfl

theorem exec_ori :
    exec (.ori rB rA imm16) s = writeResult s rB (s.getReg rA ||| zext16 imm16) := rfl

theorem exec_xori :
    exec (.xori rB rA imm16) s = writeResult s rB (s.getReg rA ^^^ zext16 imm16) := rfl

theorem exec_addi :
    exec (.addi rB rA imm16) s = writeResult s rB (s.getReg rA + sext16 imm16) := rfl

theorem exec_sub :
    exec (.sub rC rA rB) s = writeResult s rC (s.getReg rA - s.getReg rB) := rfl

theorem exec_mul :
    exec (.mul rC rA rB) s = writeResult s rC (s.getReg rA * s.getReg rB) := rfl

theorem exec_mulxsu : exec (.mulxsu rC rA rB) s =
    writeResult s rC (highWord ((s.getReg rA).toInt * (s.getReg rB).toNat)) := rfl

theorem exec_div : exec (.div rC rA rB) s =
    if s.getReg rB = 0#32 then .next s
    else if divOverflows (s.getReg rA) (s.getReg rB) then writeResult s.useFree rC s.freeQuotient
    else writeResult s rC (signedQuotient (s.getReg rA) (s.getReg rB)) := rfl

theorem exec_cmpeqi : exec (.cmpeqi rB rA imm16) s =
    writeResult s rB (compareResult (decide (s.getReg rA = sext16 imm16))) := rfl

theorem exec_cmpnei : exec (.cmpnei rB rA imm16) s =
    writeResult s rB (compareResult (decide (s.getReg rA ≠ sext16 imm16))) := rfl

theorem exec_cmpgei : exec (.cmpgei rB rA imm16) s =
    writeResult s rB (compareResult (decide ((s.getReg rA).toInt ≥ (sext16 imm16).toInt))) := rfl

theorem exec_cmpgeui : exec (.cmpgeui rB rA imm16) s =
    writeResult s rB (compareResult (decide ((s.getReg rA).toNat ≥ (zext16 imm16).toNat))) := rfl

theorem exec_cmplti : exec (.cmplti rB rA imm16) s =
    writeResult s rB (compareResult (decide ((s.getReg rA).toInt < (sext16 imm16).toInt))) := rfl

theorem exec_cmpltui : exec (.cmpltui rB rA imm16) s =
    writeResult s rB (compareResult (decide ((s.getReg rA).toNat < (zext16 imm16).toNat))) := rfl

end

/-! ## Extended immediates (R106) -/

theorem zext16_eq_append (imm16 : BitVec 16) : zext16 imm16 = 0#16 ++ imm16 := by
  rw [zext16, BitVec.setWidth_eq_append (by decide : 16 ≤ 32)]
  rfl

theorem zext16_toNat (imm16 : BitVec 16) : (zext16 imm16).toNat = imm16.toNat :=
  BitVec.toNat_setWidth_of_le (by decide)

/-! ## Logic and agreement of the forms -/

/-- Settles O17: the three rows of the opcode map, and each meaning as one register write. -/
theorem logicWithZeroExtendedImmediate : Obligations.LogicWithZeroExtendedImmediate := by
  refine ⟨decodesOp_of_row fun _ => rfl, decodesOp_of_row fun _ => rfl,
    decodesOp_of_row fun _ => rfl, fun s rB rA imm16 => ?_⟩
  rw [← zext16_eq_append]
  exact ⟨exec_onlyWritesReg (exec_andi s rA rB imm16), exec_onlyWritesReg (exec_ori s rA rB imm16),
    exec_onlyWritesReg (exec_xori s rA rB imm16)⟩

/-- Settles O19: both forms are one register write, of the same word. -/
theorem immediateFormsAgreeWithRegisterForms :
    Obligations.ImmediateFormsAgreeWithRegisterForms := by
  intro s rD rA rY imm16
  refine ⟨fun zero => ?zero, fun high => ?high, fun sign => ?sign⟩
  case zero =>
    rw [← zext16_eq_append] at zero
    rw [exec_andi, exec_ori, exec_xori, exec_cmpgeui, exec_cmpltui,
      exec_and, exec_or, exec_xor, exec_cmpgeu, exec_cmpltu, zero]
    exact ⟨rfl, rfl, rfl, rfl, rfl⟩
  case high =>
    rw [exec_andhi, exec_orhi, exec_xorhi, exec_and, exec_or, exec_xor, high]
    exact ⟨rfl, rfl, rfl⟩
  case sign =>
    rw [exec_addi, exec_cmpeqi, exec_cmpnei, exec_cmpgei, exec_cmplti,
      exec_add, exec_cmpeq, exec_cmpne, exec_cmpge, exec_cmplt, sign]
    exact ⟨rfl, rfl, rfl, rfl, rfl⟩

/-! ## Addition and subtraction -/

/-- The sum with a signed number, modulo 2^32. -/
theorem toNat_add_eq_emod (x y : Word) : ((x + y).toNat : Int) = (x.toNat + y.toInt) % 2 ^ 32 := by
  rw [BitVec.toNat_add, BitVec.toInt_eq_toNat_cond]
  split <;> omega

/-- The difference, modulo 2^32. -/
theorem toNat_sub_eq_emod (x y : Word) : ((x - y).toNat : Int) = (x.toNat - y.toNat) % 2 ^ 32 := by
  have := y.isLt
  rw [BitVec.toNat_sub]
  omega

/-- Settles O21: the two rows, each meaning as one register write, and the numbers modulo 2^32. -/
theorem addImmediateAndSubtract : Obligations.AddImmediateAndSubtract := by
  refine ⟨decodesOp_of_row fun _ => rfl, decodesOpx_of_row fun _ => rfl,
    fun s rC rA rB imm16 => ⟨?addi, ?sub⟩⟩
  case addi =>
    refine exec_onlyWritesReg_of_result (exec_addi s rA rB imm16) ?_
    rw [toNat_add_eq_emod, sext16_toInt]
  case sub => exact exec_onlyWritesReg_of_result (exec_sub s rC rA rB) (toNat_sub_eq_emod _ _)

/-! ## Products -/

/-- The low word of the mixed product is the machine's product. -/
theorem ofInt_toInt_mul_toNat {w : Nat} (x y : BitVec w) :
    BitVec.ofInt w (x.toInt * y.toNat) = x * y := by
  rw [BitVec.ofInt_mul, BitVec.ofInt_toInt, BitVec.ofInt_natCast, BitVec.ofNat_toNat,
    BitVec.setWidth_eq]

/-- A signed 32-bit number times an unsigned one fits 64 bits signed. -/
theorem toInt_mul_toNat_bounds (x y : Word) :
    -2 ^ 63 ≤ x.toInt * y.toNat ∧ x.toInt * y.toNat < 2 ^ 63 := by
  have lower : -2 ^ 31 ≤ x.toInt := BitVec.le_toInt x
  have upper : x.toInt < 2 ^ 31 := BitVec.toInt_lt
  have small : y.toNat < 2 ^ 32 := y.isLt
  constructor <;> nlinarith

/-- The mixed product fits 64 bits, so its high word completes the low word to it (R162). -/
theorem highWord_append_mul_toInt_toNat (x y : Word) :
    (highWord (x.toInt * y.toNat) ++ x * y).toInt = x.toInt * y.toNat := by
  obtain ⟨lower, upper⟩ := toInt_mul_toNat_bounds x y
  rw [← ofInt_toInt_mul_toNat x y, highWord_append_ofInt]
  exact BitVec.toInt_ofInt_eq_self (by decide) lower upper

/-- Settles O23: the two rows of the R-type map, each meaning as one register write, and the two
words of the product. -/
theorem lowWordAndMixedHighWordOfProduct : Obligations.LowWordAndMixedHighWordOfProduct := by
  refine ⟨decodesOpx_of_row fun _ => rfl, decodesOpx_of_row fun _ => rfl,
    fun s rC rA rB => ⟨?low, ?high⟩⟩
  case low =>
    exact exec_onlyWritesReg_of_result (exec_mul s rC rA rB)
      ⟨BitVec.toNat_mul _ _, (ofInt_toInt_mul_toInt _ _).symm⟩
  case high =>
    exact exec_onlyWritesReg_of_result (exec_mulxsu s rC rA rB)
      (highWord_append_mul_toInt_toNat _ _)

/-! ## Signed quotients -/

theorem divOverflows_iff {x y : Word} :
    divOverflows x y = true ↔ x = 0x80000000#32 ∧ y = 0xFFFFFFFF#32 := by
  simp [divOverflows]

/-- The quotient is the library's signed division. -/
theorem signedQuotient_eq_sdiv (x y : Word) : signedQuotient x y = x.sdiv y := by
  rw [← BitVec.toInt_inj, signedQuotient, BitVec.toInt_ofInt, BitVec.toInt_sdiv]

/-- The quotient fits 32 bits, but for the one overflow (R164). -/
theorem signedQuotient_toInt {x y : Word} (h : ¬ (x = 0x80000000#32 ∧ y = 0xFFFFFFFF#32)) :
    (signedQuotient x y).toInt = x.toInt.tdiv y.toInt := by
  rw [signedQuotient_eq_sdiv]
  exact BitVec.toInt_sdiv_of_ne_or_ne x y (not_and_or.1 h)

/-- Settles O25: the row of the R-type map, and the three branches of the meaning. -/
theorem signedDivide : Obligations.SignedDivide := by
  refine ⟨decodesOpx_of_row fun _ => rfl,
    fun s rC rA rB => ⟨fun zeroDivisor => ?zero, fun divisor fits => ?quotient,
      fun hA hB => ?overflow⟩⟩
  case zero => rw [exec_div, if_pos zeroDivisor]
  case quotient =>
    have hexec : exec (.div rC rA rB) s =
        writeResult s rC (signedQuotient (s.getReg rA) (s.getReg rB)) := by
      rw [exec_div, if_neg divisor, if_neg (fun h => fits (divOverflows_iff.1 h))]
    exact exec_onlyWritesReg_of_result hexec (signedQuotient_toInt fits)
  case overflow =>
    have hexec : exec (.div rC rA rB) s = .next (s.useFree.setReg rC s.freeQuotient) := by
      rw [exec_div, hA, hB]
      rfl
    exact ⟨_, _, hexec, onlyWritesReg_setReg s.useFree rC s.freeQuotient⟩

/-! ## Comparison -/

/-- A word is a signed immediate when the two stand for one number. -/
theorem eq_sext16_iff {x : Word} {imm16 : BitVec 16} :
    x = sext16 imm16 ↔ x.toInt = imm16.toInt := by
  rw [← sext16_toInt, BitVec.toInt_inj]

/-- Settles O27: the six rows of the opcode map, and each meaning as one write of a truth value. -/
theorem compareWithImmediate : Obligations.CompareWithImmediate := by
  refine ⟨decodesOp_of_row fun _ => rfl, decodesOp_of_row fun _ => rfl,
    decodesOp_of_row fun _ => rfl, decodesOp_of_row fun _ => rfl, decodesOp_of_row fun _ => rfl,
    decodesOp_of_row fun _ => rfl, fun s rB rA imm16 => ?_⟩
  simp only [ne_eq, ← eq_sext16_iff]
  simp only [← sext16_toInt, ← zext16_toNat]
  exact ⟨exec_onlyWritesReg_of_compare (exec_cmpeqi s rA rB imm16),
    exec_onlyWritesReg_of_compare (exec_cmpnei s rA rB imm16),
    exec_onlyWritesReg_of_compare (exec_cmpgei s rA rB imm16),
    exec_onlyWritesReg_of_compare (exec_cmpgeui s rA rB imm16),
    exec_onlyWritesReg_of_compare (exec_cmplti s rA rB imm16),
    exec_onlyWritesReg_of_compare (exec_cmpltui s rA rB imm16)⟩

end Sys2Proof.Machine
end

section
/-! Control transfer (45_control_flow.md R220 to R234; 62_debug_stepping.md R434), the control
registers (46_control_regs_system.md R250, R251), the instructions without effect, and the pending
word (60_exceptions.md R316). Every transfer ends in one checked transfer, so what that does is
said once. -/

namespace Sys2Proof.Machine

/-! ## Checked transfers (R223) -/

theorem onlyMovesPc_setPc (s : State) (target : Word) : OnlyMovesPc s (s.setPc target) target := by
  simp [OnlyMovesPc, SameOutsideRegs]

/-- An instruction whose meaning is a transfer moves to an aligned target and takes the exception at
any other. -/
theorem transfers_of_exec {i : Instr} {s : State} {target : Word}
    (h : exec i s = transfer s target) : Transfers i s target := by
  rw [transfer, checkTarget_eq] at h
  refine ⟨fun aligned => ?moves, fun misaligned => ?excepts⟩
  case moves =>
    rw [if_pos aligned] at h
    exact ⟨_, h, onlyMovesPc_setPc s target⟩
  case excepts =>
    rw [if_neg misaligned] at h
    exact ⟨_, h, exceptionIssueSavesStatusAndReturnAddress s s.ipc⟩

/-- A call moves to its target, saves the next address and deepens the call depth (R224). -/
theorem onlyCalls_notifyCall (s : State) (target : Word) :
    OnlyCalls s ((s.setReg raReg s.pc).setPc target).notifyCall target := by
  refine ⟨rfl, ?link, fun q hq => ?others, rfl, ?frame⟩
  case link =>
    rw [notifyCall_getReg, setPc_getReg]
    exact setReg_getReg_same s raReg s.pc
  case others =>
    rw [notifyCall_getReg, setPc_getReg]
    exact setReg_getReg_ne s raReg q s.pc hq
  case frame => simp [SameOutsideRegs, State.getCtl, State.ipending]

/-- The target of call and jmpi is the word `IMM26` of the segment of the next address (R221). -/
theorem jumpTarget_toNat (s : State) (imm26 : BitVec 26) :
    (s.jumpTarget imm26).toNat = s.pc.toNat / 2 ^ 28 * 2 ^ 28 + imm26.toNat * 4 := by
  have segment : (s.pc.extractLsb' 28 4).toNat = s.pc.toNat / 2 ^ 28 := by
    have := s.pc.isLt
    rw [BitVec.extractLsb'_toNat, Nat.shiftRight_eq_div_pow, Nat.mod_eq_of_lt (by omega)]
  rw [State.jumpTarget, BitVec.toNat_append, BitVec.toNat_append, BitVec.toNat_zero, Nat.or_zero,
    ← Nat.shiftLeft_add_eq_or_of_lt imm26.isLt, Nat.shiftLeft_eq, Nat.shiftLeft_eq, segment]
  omega

section
variable (s : State) (rA rB : Reg) (imm16 : BitVec 16) (imm26 : BitVec 26)

theorem exec_jmp : exec (.jmp rA) s = transfer s (s.getReg rA) := rfl

theorem exec_br : exec (.br imm16) s = transfer s (s.pc + imm16.signExtend 32) := rfl

theorem exec_jmpi : exec (.jmpi imm26) s = .next (s.setPc (s.jumpTarget imm26)) := by
  change checkTarget s _ _ = _
  rw [checkTarget_eq, if_pos (jumpTarget_aligned s imm26)]

theorem exec_call : exec (.call imm26) s =
    .next ((s.setReg raReg s.pc).setPc (s.jumpTarget imm26)).notifyCall := by
  change checkTarget s _ _ = _
  rw [checkTarget_eq, if_pos (jumpTarget_aligned s imm26)]

theorem exec_callr : exec (.callr rA) s =
    .next (if (s.getReg rA).toNat % 4 = 0
      then ((s.setReg raReg s.pc).setPc (s.getReg rA)).notifyCall
      else s.takeException s.ipc) := checkTarget_eq s _ _

end

/-- Settles O30: the three rows, and each meaning as a transfer; that of jmpi is always aligned. -/
theorem unconditionalJumps : Obligations.UnconditionalJumps := by
  refine ⟨decodesOpx_of_row fun _ => rfl, decodesOp_of_row fun _ => rfl,
    decodesOp_of_row fun _ => rfl, fun s rA imm16 imm26 => ?_⟩
  exact ⟨transfers_of_exec (exec_jmp s rA), transfers_of_exec (exec_br s imm16),
    _, _, exec_jmpi s imm26, onlyMovesPc_setPc s _, jumpTarget_toNat s imm26⟩

/-- Settles O31: the two rows, and the two outcomes of the check of callr. -/
theorem callsSaveTheNextAddress : Obligations.CallsSaveTheNextAddress := by
  refine ⟨decodesOp_of_row fun _ => rfl, decodesOpx_of_row fun _ => rfl, fun s rA imm26 => ?_⟩
  refine ⟨⟨_, _, exec_call s imm26, onlyCalls_notifyCall s _, jumpTarget_toNat s imm26⟩,
    fun aligned => ?calls, fun misaligned => ?excepts⟩
  case calls =>
    rw [exec_callr, if_pos aligned]
    exact ⟨_, rfl, onlyCalls_notifyCall s _⟩
  case excepts =>
    rw [exec_callr, if_neg misaligned]
    exact ⟨_, rfl, exceptionIssueSavesStatusAndReturnAddress s s.ipc⟩

/-! ## Conditional branches (R226 to R231) -/

/-- A branch on a decided relation is a transfer when it holds and nothing when it does not. -/
theorem branchesOn_of_exec {op : BitVec 6} {instr : Reg → Reg → BitVec 16 → Instr}
    {holds : Word → Word → Prop} [∀ a b, Decidable (holds a b)]
    (row : ∀ w, decodeOp op w = .ok (instr (aField w) (bField w) (imm16Field w)))
    (h : ∀ rA rB imm16 s, exec (instr rA rB imm16) s =
      branchIf s (decide (holds (s.getReg rA) (s.getReg rB))) imm16) :
    BranchesOn op instr holds := by
  refine ⟨decodesOp_of_row row, fun rA rB imm16 s => ⟨fun taken => ?taken, fun untaken => ?untaken⟩⟩
  case taken =>
    refine transfers_of_exec ?_
    rw [h, branchIf_eq, if_pos (decide_eq_true taken)]
    rfl
  case untaken =>
    rw [h, branchIf_eq, if_neg (by simpa using untaken)]

/-- Settles O32: the six rows, and each relation as the model decides it. -/
theorem conditionalBranches : Obligations.ConditionalBranches :=
  ⟨branchesOn_of_exec (fun _ => rfl) fun _ _ _ _ => rfl,
    branchesOn_of_exec (fun _ => rfl) fun _ _ _ _ => rfl,
    branchesOn_of_exec (fun _ => rfl) fun _ _ _ _ => rfl,
    branchesOn_of_exec (fun _ => rfl) fun _ _ _ _ => rfl,
    branchesOn_of_exec (fun _ => rfl) fun _ _ _ _ => rfl,
    branchesOn_of_exec (fun _ => rfl) fun _ _ _ _ => rfl⟩

/-! ## Returns (R232, R434) -/

/-- The mode after a return, as one condition (R434). -/
theorem modeAfterReturn_eq (mode : DebuggingState) (depth frame : Int) :
    modeAfterReturn mode depth frame =
      if (mode = .stepOver ∨ mode = .stepReturn) ∧ depth < frame then .stepInto else mode := by
  cases mode <;> simp [modeAfterReturn]

/-- Settles O33: the row of the R-type map, the jump, and the return notification. -/
theorem retJumpsToTheLinkRegister : Obligations.RetJumpsToTheLinkRegister := by
  refine ⟨decodesOpx_of_row fun _ => rfl, fun s => ?_⟩
  refine ⟨(s.setPc (s.getReg raReg)).notifyReturn, rfl, rfl, fun _ => rfl, rfl, ?_⟩
  simp only [← modeAfterReturn_eq]
  simp [SameOutsideRegs, State.getCtl, State.ipending]

/-! ## Instructions without effect -/

/-- Settles O34: the nine rows, and each meaning as the state itself. -/
theorem noOperationInstructions : Obligations.NoOperationInstructions := by
  refine ⟨decodesOpx_of_row fun _ => rfl, decodesOpx_of_row fun _ => rfl,
    decodesOpx_of_row fun _ => rfl, decodesOpx_of_row fun _ => rfl, decodesOp_of_row fun _ => rfl,
    decodesOp_of_row fun _ => rfl, decodesOpx_of_row fun _ => rfl, decodesOp_of_row fun _ => rfl,
    decodesOp_of_row fun _ => rfl, fun s rA imm16 => ?_⟩
  exact ⟨rfl, rfl, rfl, rfl, rfl, rfl, rfl, rfl, rfl⟩

/-! ## Control registers (R250, R251) -/

theorem exec_rdctl (s : State) (rC : Reg) (n : CtlReg) :
    exec (.rdctl rC n) s = writeResult s rC (s.getCtl n) := rfl

theorem exec_wrctl (s : State) (n : CtlReg) (rA : Reg) :
    exec (.wrctl n rA) s = .next (s.setCtl n (s.getReg rA)) := rfl

/-- Settles O36: the row of the R-type map, and the meaning as one register write. -/
theorem rdctlReadsTheControlRegister : Obligations.RdctlReadsTheControlRegister := by
  refine ⟨decodesOpx_of_row fun _ => rfl, fun s rC n => ?_⟩
  exact exec_onlyWritesReg (exec_rdctl s rC n)

/-- Settles O37: the row of the R-type map, and what the accessors read after the write. -/
theorem wrctlWritesTheControlRegister : Obligations.WrctlWritesTheControlRegister := by
  refine ⟨decodesOpx_of_row fun _ => rfl, fun s n rA => ?_⟩
  refine ⟨_, exec_wrctl s n rA, fun hn => setCtl_getCtl_same s n _ hn,
    fun m hm h4 => setCtl_getCtl_ne s n m _ hm h4, getCtl_four _, rfl, fun _ => rfl, rfl, ?_⟩
  simp [SameOutsideRegs, State.getCtl, State.ipending]

/-! ## The pending word (R316) -/

theorem assertLine_idem (irq : Word) (n : Line) :
    assertLine (assertLine irq n) n = assertLine irq n := by
  rw [assertLine, assertLine, BitVec.or_assoc, BitVec.or_self]

theorem deassertLine_idem (irq : Word) (n : Line) :
    deassertLine (deassertLine irq n) n = deassertLine irq n := by
  rw [deassertLine, deassertLine, BitVec.and_assoc, BitVec.and_self]

/-- Settles O38: the one bit that each call sets or clears, and what the calls are for a device. -/
theorem interruptLinesSetAndClearOneBit : Obligations.InterruptLinesSetAndClearOneBit := by
  refine ⟨fun s n => ?calls, driveLine_no_line, fun irq n => ⟨rfl, rfl⟩⟩
  case calls =>
    refine ⟨_, _, rfl, rfl, rfl, rfl, assertLine_bit s.irq n, deassertLine_bit s.irq n, ?_, ?_,
      rfl, rfl⟩
    · simp only [applyHost, assertLine_idem]
    · simp only [applyHost, deassertLine_idem]

end Sys2Proof.Machine
end

section
/-! The induction over a Step (60_exceptions.md R310, R311). A tick is made of parts, and what a
part can do to memory, bus, configuration and call depth is said once; so a predicate that the
parts and the clock keep is kept by every Step. -/

namespace Sys2Proof.Machine

/-- What a part of a tick can do to the machine: the entry, the fetch, the advance of `pc`, the
instruction, a fatal error, an exception or a halt. -/
structure TickEffect (s t : State) : Prop where
  cfg : t.cfg = s.cfg
  bp : t.bp = s.bp
  clock : t.clock = s.clock
  stepFrame : t.stepFrame = s.stepFrame
  mem : t.mem = s.mem ∨ ∃ a v size, t.mem = s.mem.writeSize a v size
  zero : t.regs[0] = s.regs[0]
  pending : t.ctl[4] = s.ctl[4]
  bus : BusEffect s t
  depth : DepthEffect s t

/-- An instruction does less: it keeps the run state too. -/
theorem ExecEffect.tick {s t : State} (h : ExecEffect s t) : TickEffect s t :=
  ⟨h.cfg, h.bp, h.clock, h.stepFrame, h.mem, h.zero, h.pending, h.bus, h.depth⟩

theorem tickEffect_enterTick (s : State) : TickEffect s s.enterTick :=
  ⟨rfl, rfl, rfl, rfl, .inl rfl, rfl, rfl, .inl ⟨rfl, rfl⟩, .inl ⟨rfl, rfl⟩⟩

theorem tickEffect_halt (s : State) : TickEffect s s.halt :=
  ⟨rfl, rfl, rfl, rfl, .inl rfl, rfl, rfl, .inl ⟨rfl, rfl⟩, .inl ⟨rfl, rfl⟩⟩

theorem tickEffect_fetchWord {s t : State} {iw : Word} (h : s.fetchWord = .ok (iw, t)) :
    TickEffect s t := by
  have bus := fetchWord_busEffect h
  obtain ⟨-, -, rfl⟩ | ⟨-, -, rfl⟩ | ⟨k, r, -, -, -, rfl⟩ := fetchWord_ok h
  all_goals exact ⟨rfl, rfl, rfl, rfl, .inl rfl, rfl, rfl, bus, .inl ⟨rfl, rfl⟩⟩

section
variable {P : State → Prop} (part : ∀ s t, TickEffect s t → P s → P t)
include part

/-- What every part of a tick keeps, the tick keeps. -/
theorem TickResult.keeps {s u : State} (h : TickResult s u) (hs : P s) : P u := by
  have entered : P s.enterTick := part _ _ (tickEffect_enterTick s) hs
  cases h with
  | interrupt => exact part _ _ (effect_takeException _ _).tick entered
  | unmapped => exact part _ _ (effect_raiseFatal _ _).tick entered
  | halt => exact part _ _ (tickEffect_halt _) entered
  | misaligned => exact part _ _ (effect_raiseFatal _ _).tick entered
  | executed _ _ _ _ fetch done =>
    have fetched := part _ _ (tickEffect_fetchWord fetch) entered
    exact part _ _ (executeWord_effect done).tick (part _ _ (effect_setPc _ _).tick fetched)

/-- What every part of a tick and the clock keep, the Step keeps. -/
theorem step_keeps (clock : ∀ s, P s → P s.endStep) {s t : State} (h : step s = .next t)
    (hs : P s) : P t := by
  obtain ⟨-, ⟨-, rfl⟩ | ⟨-, u, hu, rfl⟩⟩ := step_next h
  · exact hs
  · have ticked : P u := hu.keeps part hs
    unfold finishStep
    split
    · exact ticked
    · exact clock u ticked

end

/-- The regions after the clock (R310). -/
theorem endStep_bus_eq_map (s : State) : s.endStep.bus = s.bus.map Region.clocked := by
  rw [endStep_bus, clockRegions_eq]

/-- A clocked region is the region with its device after `OnClock`. -/
theorem clocked_eq (r : Region) : r.clocked = { r with dev := r.dev.onClock.1 } := by
  obtain ⟨_, _, _, _, d⟩ := r
  cases d <;> rfl

end Sys2Proof.Machine
end

section
/-! The data invariant (10_state.md R21, R28, R41; 61_devices.md R361). -/

namespace Sys2Proof.Machine

theorem dataOk_iff {s : State} : s.dataOk = true ↔
    s.mem.wf = true ∧ s.bp.wf = true ∧ s.regs[0] = 0#32 ∧ s.ctl[4] = 0#32 ∧
      ∀ r ∈ s.bus, r.dev.stateOk = true := by
  simp [State.dataOk, and_assoc]

/-- At most one device call keeps every device in order. -/
theorem BusEffect.stateOk {s t : State} (h : BusEffect s t)
    (hs : ∀ r ∈ s.bus, r.dev.stateOk = true) : ∀ r ∈ t.bus, r.dev.stateOk = true := by
  obtain ⟨same, -⟩ | ⟨k, r, res, hr, call, bus, -⟩ := h
  · rwa [same]
  · intro q hq
    rw [bus] at hq
    obtain hq | rfl := List.mem_or_eq_of_mem_set hq
    · exact hs q hq
    · exact call.kept.state (hs r (List.mem_of_getElem? hr))

theorem TickEffect.dataOk {s t : State} (h : TickEffect s t) (hs : s.dataOk = true) :
    t.dataOk = true := by
  obtain ⟨mem, bp, zero, pending, devices⟩ := dataOk_iff.1 hs
  have memory : t.mem.wf = true := by
    obtain same | ⟨a, v, size, stored⟩ := h.mem
    · rwa [same]
    · rw [stored]
      exact Memory.writeSize_wf mem a v size
  exact dataOk_iff.2 ⟨memory, h.bp ▸ bp, h.zero.trans zero, h.pending.trans pending,
    h.bus.stateOk devices⟩

theorem endStep_dataOk {s : State} (hs : s.dataOk = true) : s.endStep.dataOk = true := by
  obtain ⟨mem, bp, zero, pending, devices⟩ := dataOk_iff.1 hs
  refine dataOk_iff.2 ⟨mem, bp, zero, pending, fun q hq => ?_⟩
  rw [endStep_bus_eq_map, List.mem_map] at hq
  obtain ⟨r, hr, rfl⟩ := hq
  rw [clocked_eq]
  exact r.dev.onClock_kept.state (devices r hr)

/-- Settles O57: the parts of a tick and the clock keep the data in order. -/
theorem stepKeepsTheDataInvariant : Obligations.StepKeepsTheDataInvariant :=
  fun _ _ hs h => step_keeps (P := fun s => s.dataOk = true) (fun _ _ => TickEffect.dataOk)
    (fun _ => endStep_dataOk) h hs

end Sys2Proof.Machine
end

section
/-! The configuration (20_memory.md R60, R63). What the configuration fixes of a region is the
region at power-on, so two regions have one configuration when they are equal there, and
well-formedness is asked of the regions at power-on. -/

namespace Sys2Proof.Machine

/-- The region with its device at power-on: its configuration, and no state. -/
def Region.atPowerOn (r : Region) : Region := { r with dev := (r.dev.powerOn 0).1 }

theorem Device.sameConfig_iff {d e : Device} :
    d.sameConfig e = true ↔ (d.powerOn 0).1 = (e.powerOn 0).1 := by
  cases d <;> cases e
  case timer.timer p t q u =>
    simp only [Device.sameConfig, Device.powerOn, decide_eq_true_eq, Device.timer.injEq]
    exact ⟨fun h => h ▸ ⟨rfl, rfl⟩, And.left⟩
  case characterDisplay.characterDisplay n k m l =>
    simp only [Device.sameConfig, Device.powerOn, decide_eq_true_eq,
      Device.characterDisplay.injEq]
    exact ⟨fun h => h ▸ ⟨rfl, rfl⟩, And.left⟩
  all_goals simp [Device.sameConfig, Device.powerOn]

theorem Region.sameConfig_iff {r q : Region} :
    r.sameConfig q = true ↔ r.atPowerOn = q.atPowerOn := by
  simp [Region.sameConfig, Region.atPowerOn, Device.sameConfig_iff, and_assoc]

theorem sameConfiguration_iff {s t : State} : SameConfiguration s t ↔
    t.cfg = s.cfg ∧ t.bus.map Region.atPowerOn = s.bus.map Region.atPowerOn := by
  simp only [SameConfiguration, Region.sameConfig_iff]
  rw [eq_comm (a := t.bus.map _), ← List.forall₂_eq_eq_eq, List.forall₂_map_left_iff,
    List.forall₂_map_right_iff]

/-! ## Changes of devices -/

/-- A device call or a reset keeps the configuration of its region. -/
theorem atPowerOn_of_sameConfig {r : Region} {d : Device} (h : r.dev.sameConfig d = true) :
    ({ r with dev := d } : Region).atPowerOn = r.atPowerOn := by
  rw [Region.atPowerOn, Region.atPowerOn, ← Device.sameConfig_iff.1 h]

/-- A change of one device. -/
theorem map_atPowerOn_set {bus : List Region} {k : Nat} {r : Region} {d : Device}
    (hr : bus[k]? = some r) (h : r.dev.sameConfig d = true) :
    (bus.set k { r with dev := d }).map Region.atPowerOn = bus.map Region.atPowerOn := by
  obtain ⟨hk, rfl⟩ := List.getElem?_eq_some_iff.1 hr
  rw [List.map_set, atPowerOn_of_sameConfig h, ← List.map_set, List.set_getElem_self]

/-- A change of every device. -/
theorem map_atPowerOn_map {bus : List Region} {f : Device → Device}
    (h : ∀ d : Device, d.sameConfig (f d) = true) :
    (bus.map fun r => { r with dev := f r.dev }).map Region.atPowerOn =
      bus.map Region.atPowerOn := by
  rw [List.map_map]
  exact List.map_congr_left fun r _ => atPowerOn_of_sameConfig (h r.dev)

theorem BusEffect.map_atPowerOn {s t : State} (h : BusEffect s t) :
    t.bus.map Region.atPowerOn = s.bus.map Region.atPowerOn := by
  obtain ⟨same, -⟩ | ⟨k, r, res, hr, call, bus, -⟩ := h
  · rw [same]
  · rw [bus, map_atPowerOn_set hr call.kept.config]

theorem endStep_map_atPowerOn (s : State) :
    s.endStep.bus.map Region.atPowerOn = s.bus.map Region.atPowerOn := by
  rw [endStep_bus_eq_map, funext clocked_eq]
  exact map_atPowerOn_map fun d => d.onClock_kept.config

/-! ## Well-formedness (R63) -/

theorem atPowerOn_wellFormed (r : Region) : r.atPowerOn.wellFormed = r.wellFormed := by
  obtain ⟨_, _, _, _, d⟩ := r
  cases d <;> rfl

theorem regionsDisjoint_map_atPowerOn : ∀ bus : List Region,
    regionsDisjoint (bus.map Region.atPowerOn) = regionsDisjoint bus
  | [] => rfl
  | r :: rest => by
    rw [List.map_cons, regionsDisjoint, regionsDisjoint, List.all_map,
      regionsDisjoint_map_atPowerOn rest]
    rfl

theorem linesDistinct_map_atPowerOn : ∀ bus : List Region,
    linesDistinct (bus.map Region.atPowerOn) = linesDistinct bus
  | [] => rfl
  | r :: rest => by
    rw [List.map_cons, linesDistinct, linesDistinct, List.all_map, linesDistinct_map_atPowerOn rest]
    rfl

theorem busWellFormed_map_atPowerOn (bus : List Region) :
    busWellFormed (bus.map Region.atPowerOn) = busWellFormed bus := by
  have regions : Region.wellFormed ∘ Region.atPowerOn = Region.wellFormed :=
    funext atPowerOn_wellFormed
  rw [busWellFormed, busWellFormed, List.all_map, regions, regionsDisjoint_map_atPowerOn,
    linesDistinct_map_atPowerOn]

/-- States with the same regions at power-on are well formed alike. -/
theorem configOk_of_map_atPowerOn {s t : State}
    (h : t.bus.map Region.atPowerOn = s.bus.map Region.atPowerOn) : t.configOk = s.configOk := by
  rw [State.configOk, State.configOk, ← busWellFormed_map_atPowerOn, h, busWellFormed_map_atPowerOn]

/-- Settles O58: the parts of a tick and the clock keep the parameters and the regions at
power-on. -/
theorem stepKeepsTheConfiguration : Obligations.StepKeepsTheConfiguration := by
  intro s t h
  have kept : t.cfg = s.cfg ∧ t.bus.map Region.atPowerOn = s.bus.map Region.atPowerOn :=
    step_keeps (P := fun u => u.cfg = s.cfg ∧
        u.bus.map Region.atPowerOn = s.bus.map Region.atPowerOn)
      (fun _ _ part hu => ⟨part.cfg.trans hu.1, part.bus.map_atPowerOn.trans hu.2⟩)
      (fun u hu => ⟨hu.1, (endStep_map_atPowerOn u).trans hu.2⟩) h ⟨rfl, rfl⟩
  obtain ⟨wellFormed, -⟩ := step_next h
  exact ⟨sameConfiguration_iff.2 kept, (configOk_of_map_atPowerOn kept.2).trans wellFormed⟩

end Sys2Proof.Machine
end

section
/-! The lines of the devices (61_devices.md R352). A device call drives the line of its own region
to the level of its line function; no other region has that line (20_memory.md R63 (d)). -/

namespace Sys2Proof.Machine

/-- The line of the region is at the level of its line function. -/
def Region.lineAgrees (irq : Word) (r : Region) : Prop :=
  ∀ n l, r.irq = some n → r.dev.line = some l → irq.getLsbD n.val = l

/-- The regions have no line in common. -/
def Region.linesApart (r q : Region) : Prop := ∀ n, r.irq = some n → q.irq ≠ some n

theorem linesAgree_iff {irq : Word} {bus : List Region} :
    LinesAgree irq bus ↔ ∀ r ∈ bus, r.lineAgrees irq := Iff.rfl

theorem Region.linesApart.symm {r q : Region} (h : r.linesApart q) : q.linesApart r :=
  fun n hq hr => h n hr hq

theorem linesDistinct_cons {r : Region} {rest : List Region} :
    linesDistinct (r :: rest) = true ↔
      (∀ q ∈ rest, r.linesApart q) ∧ linesDistinct rest = true := by
  rw [linesDistinct, Bool.and_eq_true, Bool.or_eq_true, List.all_eq_true]
  refine and_congr_left fun _ => ?_
  cases hr : r.irq <;> simp [Region.linesApart, hr]

theorem linesDistinct_of_configOk {s : State} (h : s.configOk = true) :
    linesDistinct s.bus = true := by
  simp only [State.configOk, busWellFormed, Bool.and_eq_true] at h
  exact h.2

/-- Regions at different places of a bus with distinct lines have no line in common. -/
theorem linesApart_of_getElem? : ∀ {bus : List Region} {i j : Nat} {r q : Region},
    linesDistinct bus = true → bus[i]? = some r → bus[j]? = some q → i ≠ j → r.linesApart q
  | [], _, _, _, _, _, hr, _, _ => by simp at hr
  | x :: rest, i, j, r, q, distinct, hr, hq, ne => by
    obtain ⟨apart, distinct⟩ := linesDistinct_cons.1 distinct
    cases i with
    | zero =>
      cases j with
      | zero => exact absurd rfl ne
      | succ j =>
        obtain rfl : x = r := by simpa using hr
        exact apart q (List.mem_of_getElem? (by simpa using hq))
    | succ i =>
      cases j with
      | zero =>
        obtain rfl : x = q := by simpa using hq
        exact (apart r (List.mem_of_getElem? (by simpa using hr))).symm
      | succ j =>
        exact linesApart_of_getElem? distinct (by simpa using hr) (by simpa using hq)
          fun e => ne (congrArg _ e)

/-! ## One driven line -/

/-- The region whose device drove its line. -/
theorem lineAgrees_driven {irq : Word} {r : Region} {d : Device} {level : Option Bool}
    (h : r.lineAgrees irq) (kept : DeviceKept r.dev d level) :
    ({ r with dev := d } : Region).lineAgrees (driveLine irq r.irq level) := by
  intro n l (hn : r.irq = some n) hl
  obtain rfl | ⟨rfl, before⟩ := kept.line l hl
  · rw [hn, driveLine_bit irq n l n.val n.isLt, if_pos rfl]
  · rw [driveLine_none]
    exact h n l hn before

/-- A region with another line. -/
theorem lineAgrees_apart {irq : Word} {r q : Region} {level : Option Bool} (h : q.lineAgrees irq)
    (apart : r.linesApart q) : q.lineAgrees (driveLine irq r.irq level) := by
  intro n l hn hl
  rw [← h n l hn hl]
  cases hr : r.irq with
  | none => rfl
  | some m =>
    have ne : n.val ≠ m.val := fun e => apart m hr (hn.trans (congrArg some (Fin.ext e)))
    cases level with
    | none => rfl
    | some level => rw [driveLine_bit irq m level n.val n.isLt, if_neg ne]

/-- At most one device call keeps every line at its level. -/
theorem BusEffect.linesAgree {s t : State} (h : BusEffect s t)
    (distinct : linesDistinct s.bus = true)
    (hs : LinesAgree s.irq s.bus) : LinesAgree t.irq t.bus := by
  obtain ⟨bus, irq⟩ | ⟨k, r, res, hr, call, bus, irq⟩ := h
  · rwa [bus, irq]
  · rw [linesAgree_iff] at hs ⊢
    intro q hq
    rw [bus] at hq
    rw [irq]
    obtain ⟨i, hi⟩ := List.mem_iff_getElem?.1 hq
    by_cases own : k = i
    · obtain ⟨hk, -⟩ := List.getElem?_eq_some_iff.1 hr
      obtain rfl : { r with dev := res.dev } = q := by simpa [← own, hk] using hi
      exact lineAgrees_driven (hs r (List.mem_of_getElem? hr)) call.kept
    · rw [List.getElem?_set_ne own] at hi
      exact lineAgrees_apart (hs q (List.mem_of_getElem? hi))
        (linesApart_of_getElem? distinct hr hi own)

/-! ## The clock -/

/-- The clock of other regions leaves a line alone. -/
theorem lineAgrees_clockRegions {q : Region} : ∀ {bus : List Region} {irq : Word},
    q.lineAgrees irq → (∀ r ∈ bus, r.linesApart q) → q.lineAgrees (clockRegions irq bus).2
  | [], _, h, _ => h
  | r :: rest, irq, h, apart => by
    obtain ⟨first, others⟩ := List.forall_mem_cons.1 apart
    exact lineAgrees_clockRegions (bus := rest) (lineAgrees_apart h first) others

/-- Each Timer drives its own line in turn. -/
theorem linesAgree_clockRegions : ∀ {bus : List Region} {irq : Word}, linesDistinct bus = true →
    LinesAgree irq bus → LinesAgree (clockRegions irq bus).2 (clockRegions irq bus).1
  | [], _, _, h => h
  | r :: rest, irq, distinct, h => by
    rw [linesAgree_iff] at h
    obtain ⟨apart, distinct⟩ := linesDistinct_cons.1 distinct
    have driven := lineAgrees_driven (h r List.mem_cons_self) r.dev.onClock_kept
    have others : LinesAgree (driveLine irq r.irq r.dev.onClock.2) rest := fun q hq =>
      lineAgrees_apart (h q (List.mem_cons_of_mem _ hq)) (apart q hq)
    refine List.forall_mem_cons.2 ⟨?_, linesAgree_clockRegions distinct others⟩
    exact lineAgrees_clockRegions (bus := rest) driven fun q hq => (apart q hq).symm

/-- Settles O59: the parts of a tick and the clock keep the lines at their levels, in a
configuration whose lines stay distinct. -/
theorem stepKeepsLinesAtTheirLevel : Obligations.StepKeepsLinesAtTheirLevel := by
  intro s t agree h
  obtain ⟨wellFormed, -⟩ := step_next h
  have kept : t.configOk = true ∧ LinesAgree t.irq t.bus :=
    step_keeps (P := fun u => u.configOk = true ∧ LinesAgree u.irq u.bus)
      (fun _ _ part hu => ⟨(configOk_of_map_atPowerOn part.bus.map_atPowerOn).trans hu.1,
        part.bus.linesAgree (linesDistinct_of_configOk hu.1) hu.2⟩)
      (fun u hu => ⟨(configOk_of_map_atPowerOn (endStep_map_atPowerOn u)).trans hu.1,
        linesAgree_clockRegions (linesDistinct_of_configOk hu.1) hu.2⟩) h ⟨wellFormed, agree⟩
  exact kept.2

end Sys2Proof.Machine
end

section
/-! The Step (60_exceptions.md R310 to R317). The forward direction of the case analysis of a
tick: under each condition, what the tick is; and what the end of a Step adds. -/

namespace Sys2Proof.Machine

variable {s : State}

/-! ## The tick under each condition (R311) -/

theorem fetchAndExecute_misaligned (odd : s.pc.toNat % 4 ≠ 0) : fetchAndExecute s =
    .next (s.raiseFatal ⟨.misalignedAccess, s.pc, .word, .fetch, none⟩) :=
  if_pos fun e => odd (extract_two_eq_zero.1 e)

/-- The fetch and the instruction after it, or the refusal of the fetch. -/
theorem fetchAndExecute_aligned (even : s.pc.toNat % 4 = 0) : fetchAndExecute s =
    match s.fetchWord with
    | .error e => .refused e
    | .ok (iw, f) => executeWord (f.setPc (f.pc + 4#32)) iw :=
  if_neg (not_not.2 (extract_two_eq_zero.2 even))

theorem cpuTick_interrupt (run : s.runState = .run) (ready : s.interruptReady = true) :
    cpuTick s = .next (s.enterTick.takeException s.pc) := by
  rw [cpuTick, if_pos ⟨run, ready⟩]

section
variable (calm : ¬ (s.runState = .run ∧ s.interruptReady = true))
include calm

theorem cpuTick_unmapped (invalid : s.addressValid s.pc = false) : cpuTick s =
    .next (s.enterTick.raiseFatal ⟨.invalidAddress, s.pc, .word, .fetch, none⟩) := by
  rw [cpuTick, if_neg calm, if_pos invalid]

theorem cpuTick_due (run : s.runState = .run) (valid : s.addressValid s.pc = true)
    (due : s.shouldHalt s.pc = true) : cpuTick s = .next s.enterTick.halt := by
  rw [cpuTick, if_neg calm, if_neg (by simp [valid]), if_pos ⟨run, due⟩]

section
variable (valid : s.addressValid s.pc = true)
  (notDue : ¬ (s.runState = .run ∧ s.shouldHalt s.pc = true))
include valid notDue

theorem cpuTick_fetches : cpuTick s = fetchAndExecute s.enterTick := by
  rw [cpuTick, if_neg calm, if_neg (by simp [valid]), if_neg notDue]

end
end

/-- A resuming CPU does not check for an interrupt (R311), and a running one passes with none
ready. -/
theorem interruptCheck_passes
    (h : s.runState = .resuming ∨ s.runState = .run ∧ s.interruptReady = false) :
    s.runState ≠ .halted ∧ ¬ (s.runState = .run ∧ s.interruptReady = true) := by
  obtain resuming | ⟨run, calm⟩ := h
  · simp [resuming]
  · simp [run, calm]

/-- A resuming CPU does not check for a halt (R311), and a running one passes with none due. -/
theorem haltCheck_passes (h : s.runState = .resuming ∨ s.shouldHalt s.pc = false) :
    ¬ (s.runState = .run ∧ s.shouldHalt s.pc = true) := by
  obtain resuming | notDue := h
  · simp [resuming]
  · simp [notDue]

theorem checks_pass (h : s.runState = .resuming ∨
    s.runState = .run ∧ s.interruptReady = false ∧ s.shouldHalt s.pc = false) :
    s.runState ≠ .halted ∧ ¬ (s.runState = .run ∧ s.interruptReady = true) ∧
      ¬ (s.runState = .run ∧ s.shouldHalt s.pc = true) := by
  obtain ⟨moving, calm⟩ := interruptCheck_passes (h.imp_right fun ⟨run, calm, _⟩ => ⟨run, calm⟩)
  exact ⟨moving, calm, haltCheck_passes (h.imp_right fun ⟨_, _, notDue⟩ => notDue)⟩

/-! ## The end of a Step (R310) -/

theorem finishStep_of_idle (h : s.idle = true) : finishStep s = s := if_pos h

theorem finishStep_of_not_idle (h : s.idle = false) : finishStep s = s.endStep :=
  if_neg (by simp [h])

theorem idle_iff : s.idle = true ↔ s.fatal.isSome = true ∨ s.runState = .halted := by
  simp [State.idle]

/-- A Step whose tick ended in the state `u`. -/
theorem step_of_tick_next {u : State} (wellFormed : s.configOk = true) (alive : s.fatal = none)
    (moving : s.runState ≠ .halted) (tick : cpuTick s = .next u) :
    step s = .next (finishStep u) := by
  rw [step_of_tick wellFormed (idle_false alive moving), tick]

/-- A Step that is not idle comes of a tick. -/
theorem exists_tick_of_step {t : State} (h : step s = .next t) (busy : s.idle = false) :
    ∃ u, cpuTick s = .next u ∧ t = finishStep u := by
  rw [step_of_tick (step_next h).1 busy] at h
  cases tick : cpuTick s with
  | next u => rw [tick] at h; injection h with h; exact ⟨u, rfl, h.symm⟩
  | fault f => rw [tick] at h; cases h
  | refused e => rw [tick] at h; cases h

/-! ## Fetches -/

/-- The state in which the word at `pc` executes when it is fetched from RAM (R311). -/
def State.fetched (s : State) : State :=
  { s with
    runState := .run
    started := true
    out := s.out ++ (if s.cfg.traceEnabled then [.trace .fetch s.pc] else [])
    pc := s.pc + 4#32 }

/-- The tick on a word of RAM. -/
theorem cpuTick_ram (calm : ¬ (s.runState = .run ∧ s.interruptReady = true))
    (notDue : ¬ (s.runState = .run ∧ s.shouldHalt s.pc = true)) (even : s.pc.toNat % 4 = 0)
    (ram : s.isRam s.pc = true) :
    cpuTick s = executeWord s.fetched (s.mem.readSize s.pc .word) := by
  rw [cpuTick_fetches calm (addressValid_of_isRam ram) notDue,
    fetchAndExecute_aligned (s := s.enterTick) even, fetchWord_ram (s := s.enterTick) ram]
  rfl

/-- A fetch from a device is its read (20_memory.md R72, R75). -/
theorem fetchWord_asRead {k : Nat} {r : Region} (wellFormed : s.configOk = true)
    (even : s.pc.toNat % 4 = 0) (hr : s.resolve s.pc = some (k, r)) (hd : r.dev ≠ .ram)
    (asRead : s.cfg.deviceFetch = .asRead) :
    s.fetchWord = .ok ((r.dev.readReg (r.offset s.pc)).1,
      (s.emit (fetchEvents s)).applyDevice k r (r.dev.readReg (r.offset s.pc)).2) := by
  have traced : s.traceAccess .fetch s.pc false = s.emit (fetchEvents s) := by
    rw [traceAccess_eq]; simp [fetchEvents]
  rw [State.fetchWord, if_neg (by simp [asRead]), State.busRead]
  simp only [↓reduceIte, traceAccess_resolve, hr, State.regionRead, hd,
    deviceAccess_word wellFormed even hr]
  rw [traced]

/-- A fetch from a device is refused where the configuration says so (U4). -/
theorem fetchWord_refused {k : Nat} {r : Region} (hr : s.resolve s.pc = some (k, r))
    (hd : r.dev ≠ .ram) (refuse : s.cfg.deviceFetch = .refuse) :
    s.fetchWord = .error .deviceFetch := by
  have other : s.isRam s.pc = false := by simp [State.isRam, hr, hd]
  rw [State.fetchWord, if_pos ⟨refuse, other⟩]

/-! ## The obligations -/

/-- Settles O6: the tick on a word of RAM, when the word decodes. -/
theorem stepRunsTheDecodedInstruction : Obligations.StepRunsTheDecodedInstruction := by
  intro s i wellFormed alive checks even ram decodes
  obtain ⟨moving, calm, notDue⟩ := checks_pass checks
  rw [step_of_tick wellFormed (idle_false alive moving), cpuTick_ram calm notDue even ram,
    executeWord_ok decodes]
  rfl

/-- Settles O7: the tick on a word of RAM when the word does not decode, and the two treatments of a
fetch from a device. -/
theorem stepOnAnUnassignedWordOrADevice : Obligations.StepOnAnUnassignedWordOrADevice := by
  intro s wellFormed alive checks even
  obtain ⟨moving, calm, notDue⟩ := checks_pass checks
  refine ⟨fun ram ⟨e, undecoded⟩ => ?unassigned, fun k r hr hd => ⟨fun refuse => ?refused,
    fun asRead => ?read⟩⟩
  case unassigned =>
    have tick := cpuTick_ram calm notDue even ram
    rw [executeWord_error undecoded] at tick
    have base : s.fetched.ipc = s.pc := BitVec.add_sub_cancel s.pc 4#32
    have running : (s.fetched.takeException s.fetched.ipc).idle = false :=
      idle_false alive (by simp [State.fetched])
    refine ⟨_, ?_, exceptionIssueSavesStatusAndReturnAddress _ s.pc⟩
    rw [step_of_tick_next wellFormed alive moving tick, finishStep_of_not_idle running, base]
    rfl
  case refused =>
    rw [step_of_tick wellFormed (idle_false alive moving),
      cpuTick_fetches calm (addressValid_of_resolve hr) notDue,
      fetchAndExecute_aligned (s := s.enterTick) even,
      fetchWord_refused (s := s.enterTick) hr hd refuse]
  case read =>
    rw [step_of_tick wellFormed (idle_false alive moving),
      cpuTick_fetches calm (addressValid_of_resolve hr) notDue,
      fetchAndExecute_aligned (s := s.enterTick) even,
      fetchWord_asRead (s := s.enterTick) wellFormed even hr hd asRead]
    rfl

/-- A running CPU enters its tick as it is, but for the mark that it has been stepped (log 14). -/
theorem enterTick_of_run (run : s.runState = .run) : s.enterTick = { s with started := true } := by
  rw [State.enterTick, ← run]

/-- The exception issue clears PIE, so no interrupt is ready after it (R313). -/
theorem takeException_pie (s : State) (p : Word) : (s.takeException p).pie = false := by
  simp [State.pie]

/-- Settles O8: the interrupt is the first check of the tick. -/
theorem enabledInterruptIsTakenBeforeAnythingElse :
    Obligations.EnabledInterruptIsTakenBeforeAnythingElse := by
  intro s wellFormed alive run enabled pending
  have moving : s.runState ≠ .halted := by simp [run]
  have ready : s.interruptReady = true := by
    rw [State.interruptReady, Bool.and_eq_true]
    exact ⟨enabled, decide_eq_true pending⟩
  have tick := cpuTick_interrupt run ready
  rw [enterTick_of_run run] at tick
  have running : (State.takeException { s with started := true } s.pc).idle = false :=
    idle_false alive moving
  refine ⟨_, exceptionIssueSavesStatusAndReturnAddress _ s.pc, ?step, ?after⟩
  case step =>
    rw [step_of_tick_next wellFormed alive moving tick, finishStep_of_not_idle running]
  case after =>
    rw [State.interruptReady, Bool.and_eq_false_iff]
    exact .inl (takeException_pie _ s.pc)

/-- Settles O9: the two fatal branches of the tick, which end the Step. -/
theorem badPcIsFatal : Obligations.BadPcIsFatal := by
  intro s why wellFormed alive calm bad
  obtain ⟨moving, calm⟩ := interruptCheck_passes calm
  have tick : cpuTick s = .next (s.enterTick.raiseFatal ⟨why, s.pc, .word, .fetch, none⟩) := by
    obtain ⟨rfl, invalid⟩ | ⟨rfl, valid, odd, notDue⟩ := bad
    · exact cpuTick_unmapped calm invalid
    · rw [cpuTick_fetches calm valid (haltCheck_passes notDue)]
      exact fetchAndExecute_misaligned (s := s.enterTick) odd
  rw [step_of_tick_next wellFormed alive moving tick, finishStep_of_idle (idle_iff.2 (.inl rfl))]
  rfl

/-- Settles O10: the halt branch of the tick, which ends the Step. -/
theorem dueHaltSuspendsBeforeTheFetch : Obligations.DueHaltSuspendsBeforeTheFetch := by
  intro s wellFormed alive run calm valid due
  have tick := cpuTick_due (by simp [calm]) run valid due
  rw [step_of_tick_next wellFormed alive (by simp [run]) tick,
    finishStep_of_idle (idle_iff.2 (.inr rfl))]
  rfl

/-- Settles O11: the two checks before the tick. -/
theorem stoppedMachineStaysPutAndIllFormedIsRefused :
    Obligations.StoppedMachineStaysPutAndIllFormedIsRefused := by
  intro s
  refine ⟨fun wellFormed stopped => ?stays, fun illFormed => ?refused⟩
  case stays =>
    have idle : s.idle = true := idle_iff.2 (stopped.imp_left Option.isSome_iff_ne_none.2)
    rw [step, stepMachine, if_neg (by simp [wellFormed]), if_pos idle]
  case refused => rw [step, stepMachine, if_pos illFormed]

/-! ## The clock of completed Steps -/

/-- A tick does not count. -/
theorem TickResult.clock {u : State} (h : TickResult s u) : u.clock = s.clock :=
  h.keeps (P := fun v => v.clock = s.clock) (fun _ _ part hv => part.clock.trans hv) rfl

/-- The end of a completed Step, with the clock of all devices said once (R310). -/
theorem endStep_eq (s : State) : s.endStep =
    { s with
      bus := s.bus.map Region.clocked
      irq := clockedLines s.irq s.bus
      clock := s.clock + 1 } := by
  rw [State.endStep, clockRegions_eq]

/-- The end of a Step, by what ended the tick. -/
theorem finishStep_eq (u : State) : finishStep u =
    if u.fatal.isSome ∨ u.runState = .halted then u else
      { u with
        bus := u.bus.map Region.clocked
        irq := clockedLines u.irq u.bus
        clock := u.clock + 1 } := by
  simp only [finishStep, idle_iff, endStep_eq]

/-- A finished Step counts when it completes the tick `u`. -/
theorem finishStep_clock (u : State) : (finishStep u).clock =
    if (finishStep u).fatal.isSome ∨ (finishStep u).runState = .halted then u.clock
    else u.clock + 1 := by
  rw [finishStep_eq]
  by_cases stopped : u.fatal.isSome ∨ u.runState = .halted
  · simp only [if_pos stopped]
  · simp only [if_neg stopped]

/-- Settles O12: a Step that is idle changes nothing; any other is its tick, which does not count,
and the end of the Step. -/
theorem clockCountsCompletedSteps : Obligations.ClockCountsCompletedSteps := by
  intro s t h
  cases idle : s.idle with
  | true =>
    have stopped := idle_iff.1 idle
    obtain ⟨-, ⟨-, rfl⟩ | ⟨busy, -⟩⟩ := step_next h
    · refine ⟨(if_pos stopped).symm, fun _ => rfl, fun alive moving => ?_⟩
      exact absurd stopped (by simp [alive, moving])
    · rw [idle] at busy
      cases busy
  | false =>
    obtain ⟨u, tick, rfl⟩ := exists_tick_of_step h idle
    have moving : ¬ (s.fatal.isSome = true ∨ s.runState = .halted) := by
      rw [← idle_iff, idle]
      exact Bool.false_ne_true
    refine ⟨?counts, fun stopped => ?stopped, fun _ _ => ⟨u, tick, finishStep_eq u⟩⟩
    case counts => rw [finishStep_clock u, (cpuTick_next tick).clock]
    case stopped => exact absurd (stopped.imp_left Option.isSome_iff_ne_none.2) moving

end Sys2Proof.Machine
end

section
/-! The host events (00_scope.md R10): breakpoints and stepping (62_debug_stepping.md R431 to
R438), Reset (70_reset_and_hazards.md R460 to R465), and what every host event keeps. -/

namespace Sys2Proof.Machine

/-! ## Breakpoints (R431, R432) -/

/-- Settles O50: the counts after each of the two events. -/
theorem breakpointCountsGoUpAndDownByOne : Obligations.BreakpointCountsGoUpAndDownByOne := by
  intro s a b wf
  exact ⟨_, _, rfl, rfl, rfl, rfl, Breakpoints.arm_wf wf a, Breakpoints.disarm_wf wf a,
    Breakpoints.count_arm wf a b, Breakpoints.count_disarm wf a b⟩

/-! ## Mode selection (R436) -/

/-- Settles O53: the snapshot by the mode, the resume by the run state. -/
theorem selectModeSnapshotsAndResumes : Obligations.SelectModeSnapshotsAndResumes := by
  intro s m
  refine ⟨s.selectMode m, rfl, rfl, fun takes => if_pos takes, fun keeps => if_neg ?_,
    fun halted => if_pos halted, fun moving => if_neg moving⟩
  rcases keeps with rfl | rfl | rfl <;> simp

/-! ## The call depth and its snapshot (R438) -/

/-- A return below the snapshot leaves the two modes of the invariant, so a part of a tick keeps
it. -/
theorem TickEffect.depthOk {s t : State} (h : TickEffect s t) (hs : s.depthOk) : t.depthOk := by
  unfold State.depthOk at hs ⊢
  rw [h.stepFrame]
  obtain ⟨depth, mode⟩ | ⟨depth, mode⟩ | ⟨depth, mode⟩ := h.depth
  · rwa [depth, mode]
  · rw [depth, mode]
    intro frames
    have := hs frames
    omega
  · rw [depth, mode, modeAfterReturn_eq]
    split
    · simp
    · next stays => exact fun frames => not_lt.1 fun below => stays ⟨frames, below⟩

/-- The invariant reads the mode, the depth and the snapshot alone. -/
theorem depthOk_congr {s t : State} (mode : t.debuggingState = s.debuggingState)
    (depth : t.callStackSize = s.callStackSize) (frame : t.stepFrame = s.stepFrame)
    (hs : s.depthOk) : t.depthOk := by
  unfold State.depthOk at hs ⊢
  rwa [mode, depth, frame]

/-- The snapshot is the depth itself in the two modes that take it (R436). -/
theorem selectMode_depthOk (s : State) (m : DebuggingState) : (s.selectMode m).depthOk := by
  intro takes
  exact le_of_eq (if_pos takes)

/-- Reset leaves depth and snapshot 0 (R463). -/
theorem resetEvent_depthOk (s : State) : s.resetEvent.depthOk := fun _ => Int.le_refl 0

/-! ## The events that the rules may not let happen -/

/-- An event on a device is a change of that device, its line and the events. -/
theorem onDevice_done {s t : State} {k : Nat} {f : Device → Option DeviceResult}
    (h : onDevice s k f = .done t) :
    ∃ r d, s.bus[k]? = some r ∧ f r.dev = some d ∧ t = s.applyDevice k r d := by
  unfold onDevice at h
  split at h
  · cases h
  · next r hr =>
    split at h
    · cases h
    · next d hd => injection h with h; exact ⟨r, d, hr, hd, h.symm⟩

/-- A register setter is done only where the rules let it (10_state.md R30). -/
theorem setter_done {t u : State} {admitted : Bool}
    (h : (if admitted then HostResult.done u else .notAdmitted) = .done t) : t = u := by
  split at h
  · injection h with h; exact h.symm
  · cases h

section
variable {s t : State}

theorem setReg_done {r : Reg} {v : Word} (h : applyHost (.setReg r v) s = .done t) :
    t = s.setReg r v := setter_done (u := s.setReg r v) h

theorem setCtl_done {n : CtlReg} {v : Word} (h : applyHost (.setCtl n v) s = .done t) :
    t = s.setCtl n v := setter_done (u := s.setCtl n v) h

theorem setPC_done {v : Word} (h : applyHost (.setPC v) s = .done t) : t = s.setPc v :=
  setter_done (u := s.setPc v) h

theorem sendInput_done {k : Nat} {text : List Byte}
    (h : applyHost (.sendInput k text) s = .done t) :
    ∃ r d, s.bus[k]? = some r ∧ r.dev.sendInput text = some d ∧ t = s.applyDevice k r d :=
  onDevice_done (f := fun d => d.sendInput text) h

theorem updateData_done {k : Nat} {data : Word} {bit : Line}
    (h : applyHost (.updateData k data bit) s = .done t) :
    ∃ r d, s.bus[k]? = some r ∧ r.dev.updateInput data bit = some d ∧ t = s.applyDevice k r d :=
  onDevice_done (f := fun d => d.updateInput data bit) h

theorem loadImage_done {segments : List Segment} {entry : Word} {stmts : List Word}
    (h : applyHost (.loadImage segments entry stmts) s = .done t) :
    t = s.loadImage segments entry stmts := by
  unfold applyHost at h
  simp only at h
  split at h
  · cases h
  · split at h
    · injection h with h; exact h.symm
    · cases h

end

theorem applyHost_depthOk {e : HostEvent} {s t : State} (hs : s.depthOk)
    (h : applyHost e s = .done t) : t.depthOk := by
  cases e with
  | reset => injection h with h; exact h ▸ resetEvent_depthOk s
  | selectMode m => injection h with h; exact h ▸ selectMode_depthOk s m
  | loadImage segments entry stmts =>
    rw [loadImage_done h]
    exact depthOk_congr rfl rfl rfl (resetEvent_depthOk s)
  | assertIRQ | deassertIRQ | setBreakpoint | clearBreakpoint =>
    injection h with h
    exact h ▸ depthOk_congr rfl rfl rfl hs
  | setReg => rw [setReg_done h]; exact depthOk_congr rfl rfl rfl hs
  | setCtl => rw [setCtl_done h]; exact depthOk_congr rfl rfl rfl hs
  | setPC => rw [setPC_done h]; exact depthOk_congr rfl rfl rfl hs
  | sendInput =>
    obtain ⟨r, d, -, -, rfl⟩ := sendInput_done h
    exact depthOk_congr rfl rfl rfl hs
  | updateData =>
    obtain ⟨r, d, -, -, rfl⟩ := updateData_done h
    exact depthOk_congr rfl rfl rfl hs

/-- Settles O52: the parts of a tick and every host event keep the depth at or above the snapshot,
and there the condition that StepOver has more than StepReturn is false. -/
theorem stepOverHaltsLikeStepReturn : Obligations.StepOverHaltsLikeStepReturn := by
  refine ⟨fun s t hs h => ?steps, fun e s t hs h => applyHost_depthOk hs h,
    fun s a hs mode => ?halts⟩
  case steps =>
    exact step_keeps (fun _ _ => TickEffect.depthOk) (fun _ => depthOk_congr rfl rfl rfl) h hs
  case halts =>
    have above : ¬ s.callStackSize < s.stepFrame := not_lt.2 (hs (.inl mode))
    rw [shouldHalt_of_stepOver mode, shouldHalt_of_stepReturn rfl]
    rw [decide_eq_false above, Bool.false_and, Bool.or_false]
    rfl

/-! ## Reset (R460 to R465) -/

/-- Reset with the reset of all devices said once. -/
theorem resetEvent_eq (s : State) : s.resetEvent =
    { s with
      regs := Vector.replicate 32 0#32
      ctl := Vector.replicate 32 0#32
      irq := 0#32
      pc := s.cfg.resetAddr
      fatal := none
      bus := s.bus.map fun r => { r with dev := r.dev.afterReset }
      out := s.out ++ (s.bus.mapIdx fun k r => r.dev.resetEvents k).flatten
      runState := .run
      callStackSize := 0
      stepFrame := 0
      started := false } := by
  have devices := resetRegions_eq s.bus 0
  simp only [Nat.zero_add] at devices
  simp only [State.resetEvent, State.resetController, State.resetDevices, State.resetCpu, devices]

/-- Registers that were all set to 0 read 0. -/
theorem getReg_of_zero {s : State} (h : s.regs = Vector.replicate 32 0#32) (r : Reg) :
    s.getReg r = 0#32 := by
  simp [State.getReg, h]

theorem getCtl_of_zero {s : State} (h : s.ctl = Vector.replicate 32 0#32) (hi : s.irq = 0#32)
    (n : CtlReg) : s.getCtl n = 0#32 := by
  simp [State.getCtl, State.ipending, h, hi]

theorem resetLeaves_resetEvent (s : State) : ResetLeaves s s.resetEvent := by
  rw [resetEvent_eq]
  exact ⟨getReg_of_zero rfl, getCtl_of_zero rfl rfl, rfl, rfl, rfl, rfl, rfl, rfl, rfl, rfl, rfl,
    rfl, rfl, rfl, rfl, rfl, rfl⟩

theorem Device.afterReset_kept (d : Device) :
    d.sameConfig d.afterReset = true ∧ (d.stateOk = true → d.afterReset.stateOk = true) ∧
      ∀ l, d.afterReset.line = some l → l = false := by
  obtain ⟨config, state, -, line⟩ := d.resetDevice_kept 0
  rw [(d.resetDevice_eq 0).1] at config state line
  refine ⟨config, fun hd => state ?_, line⟩
  cases d with
  | characterDisplay len l =>
    simp only [Device.stateOk, Bool.and_eq_true, decide_eq_true_eq] at hd
    exact Nat.zero_lt_of_lt hd.2
  | _ => exact Nat.one_pos

/-- No line is pending and no line function is true after a Reset. -/
theorem resetEvent_linesAgree (s : State) : LinesAgree s.resetEvent.irq s.resetEvent.bus := by
  rw [resetEvent_eq]
  intro q hq n l _ hl
  obtain ⟨r, -, rfl⟩ := List.mem_map.1 hq
  rw [r.dev.afterReset_kept.2.2 l hl]
  exact BitVec.getLsbD_zero

theorem resetEvent_map_atPowerOn (s : State) :
    s.resetEvent.bus.map Region.atPowerOn = s.bus.map Region.atPowerOn := by
  rw [resetEvent_eq]
  exact map_atPowerOn_map fun d => d.afterReset_kept.1

/-- Settles O54: the values, the configuration and the lines after a Reset. -/
theorem resetEventLeavesTheResetValues : Obligations.ResetEventLeavesTheResetValues := by
  intro s
  refine ⟨s.resetEvent, rfl, resetLeaves_resetEvent s, sameConfiguration_iff.2 ⟨?_, ?_⟩,
    resetEvent_linesAgree s⟩
  · rw [resetEvent_eq]
  · exact resetEvent_map_atPowerOn s

/-- Settles O56: the reset state is evaluated; its lines are those that a Reset of it leaves. -/
theorem resetStateMeetsTheInvariants : Obligations.ResetStateMeetsTheInvariants := by
  refine ⟨rfl, getReg_of_zero rfl, getCtl_of_zero rfl rfl, rfl, rfl, rfl, rfl, by decide, by decide,
    resetEvent_linesAgree State.reset, fun _ => Int.le_refl 0⟩

/-! ## What every host event keeps (R12) -/

/-- Input from outside keeps a device's configuration and its state in order. -/
theorem Device.sendInput_kept {d : Device} {text : List Byte} {res : DeviceResult}
    (h : d.sendInput text = some res) : d.sameConfig res.dev = true ∧ res.dev.stateOk = true := by
  cases d with
  | serialPort | debugChannel => injection h with h; subst h; exact ⟨rfl, rfl⟩
  | ram | timer | parallelIO | characterDisplay => cases h

theorem Device.updateInput_kept {d : Device} {data : Word} {bit : Line} {res : DeviceResult}
    (h : d.updateInput data bit = some res) :
    d.sameConfig res.dev = true ∧ res.dev.stateOk = true := by
  cases d with
  | parallelIO dir p =>
    cases dir with
    | input => injection h with h; subst h; exact ⟨rfl, rfl⟩
    | output => cases h
  | ram | timer | serialPort | debugChannel | characterDisplay => cases h

/-- The data in order and the configuration well formed. -/
def State.invariantsOk (s : State) : Prop := s.dataOk = true ∧ s.configOk = true

/-- A change of one device that keeps its configuration and leaves its state in order. -/
theorem applyDevice_invariantsOk {s : State} {k : Nat} {r : Region} {res : DeviceResult}
    (hs : s.invariantsOk) (hr : s.bus[k]? = some r)
    (kept : r.dev.sameConfig res.dev = true ∧ res.dev.stateOk = true) :
    (s.applyDevice k r res).invariantsOk := by
  obtain ⟨mem, bp, zero, pending, devices⟩ := dataOk_iff.1 hs.1
  refine ⟨dataOk_iff.2 ⟨mem, bp, zero, pending, fun q hq => ?_⟩,
    (configOk_of_map_atPowerOn (map_atPowerOn_set hr kept.1)).trans hs.2⟩
  obtain hq | rfl := List.mem_or_eq_of_mem_set hq
  · exact devices q hq
  · exact kept.2

/-- A Reset, also one after which memory is loaded. -/
theorem resetEvent_invariantsOk {s : State} (hs : s.invariantsOk) : s.resetEvent.invariantsOk := by
  obtain ⟨mem, bp, -, -, devices⟩ := dataOk_iff.1 hs.1
  refine ⟨?data, (configOk_of_map_atPowerOn (resetEvent_map_atPowerOn s)).trans hs.2⟩
  rw [resetEvent_eq]
  refine dataOk_iff.2 ⟨mem, bp, by simp, by simp, fun q hq => ?_⟩
  obtain ⟨r, hr, rfl⟩ := List.mem_map.1 hq
  exact r.dev.afterReset_kept.2.1 (devices r hr)

/-- The invariants read memory, breakpoints, two cells and the regions alone. -/
theorem invariantsOk_congr {s t : State} (hs : s.invariantsOk)
    (mem : s.mem.wf = true → t.mem.wf = true) (bp : s.bp.wf = true → t.bp.wf = true)
    (zero : t.regs[0] = s.regs[0]) (pending : t.ctl[4] = s.ctl[4]) (bus : t.bus = s.bus) :
    t.invariantsOk := by
  obtain ⟨memOk, bpOk, zeroOk, pendingOk, devices⟩ := dataOk_iff.1 hs.1
  refine ⟨dataOk_iff.2 ⟨mem memOk, bp bpOk, zero.trans zeroOk, pending.trans pendingOk, ?_⟩, ?_⟩
  · rwa [bus]
  · rw [State.configOk, bus]
    exact hs.2

theorem applyHost_invariantsOk {e : HostEvent} {s t : State} (hs : s.invariantsOk)
    (h : applyHost e s = .done t) : t.invariantsOk := by
  cases e with
  | reset => injection h with h; exact h ▸ resetEvent_invariantsOk hs
  | assertIRQ | deassertIRQ | selectMode =>
    injection h with h
    exact h ▸ invariantsOk_congr hs id id rfl rfl rfl
  | setReg r v =>
    rw [setReg_done h]
    exact invariantsOk_congr hs id id (setReg_cell_zero s r v) rfl rfl
  | setCtl n v =>
    rw [setCtl_done h]
    exact invariantsOk_congr hs id id rfl (setCtl_cell_four s n v) rfl
  | setPC v =>
    rw [setPC_done h]
    exact invariantsOk_congr hs id id rfl rfl rfl
  | setBreakpoint a =>
    injection h with h
    exact h ▸ invariantsOk_congr hs id (fun wf => Breakpoints.arm_wf wf a) rfl rfl rfl
  | clearBreakpoint a =>
    injection h with h
    exact h ▸ invariantsOk_congr hs id (fun wf => Breakpoints.disarm_wf wf a) rfl rfl rfl
  | sendInput k text =>
    obtain ⟨r, d, hr, hd, rfl⟩ := sendInput_done h
    exact applyDevice_invariantsOk hs hr (Device.sendInput_kept hd)
  | updateData k data bit =>
    obtain ⟨r, d, hr, hd, rfl⟩ := updateData_done h
    exact applyDevice_invariantsOk hs hr (Device.updateInput_kept hd)
  | loadImage segments entry stmts =>
    rw [loadImage_done h]
    exact invariantsOk_congr (resetEvent_invariantsOk hs) (Memory.loadSegments_wf segments) id
      rfl rfl rfl

/-- Settles O60: a case for each event. -/
theorem hostEventsKeepTheInvariants : Obligations.HostEventsKeepTheInvariants :=
  fun _ _ _ data config h => applyHost_invariantsOk ⟨data, config⟩ h

end Sys2Proof.Machine
end

section
/-! Loads and stores (47_load_store.md R280 to R297; 20_memory.md R64 to R84). Each is one load or
one store of a width, at the one effective address; so what a load and a store do in RAM, at a
device, and at a bad address is said once for each, and the obligations list the instructions. -/

namespace Sys2Proof.Machine

/-! ## The instructions as loads and stores (R280 to R296) -/

/-- The instruction is a load of this width, extended by `ext`. -/
def IsLoad (instr : Reg → Reg → BitVec 16 → Instr) (size : Size) (io : Bool) (ext : Word → Word) :
    Prop :=
  ∀ rB rA imm16 s, exec (instr rB rA imm16) s =
    loadInto s rB (s.getReg rA + imm16.signExtend 32) size io ext

/-- The instruction is a store of this width. -/
def IsStore (instr : Reg → Reg → BitVec 16 → Instr) (size : Size) (io : Bool) : Prop :=
  ∀ rB rA imm16 s, exec (instr rB rA imm16) s =
    storeFrom s rB (s.getReg rA + imm16.signExtend 32) size io

theorem isLoad_ldb : IsLoad .ldb .byte false sextByte := fun _ _ _ _ => rfl
theorem isLoad_ldbu : IsLoad .ldbu .byte false zextByte := fun _ _ _ _ => rfl
theorem isLoad_ldh : IsLoad .ldh .half false sextHalf := fun _ _ _ _ => rfl
theorem isLoad_ldhu : IsLoad .ldhu .half false zextHalf := fun _ _ _ _ => rfl
theorem isLoad_ldw : IsLoad .ldw .word false id := fun _ _ _ _ => rfl
theorem isLoad_ldbio : IsLoad .ldbio .byte true sextByte := fun _ _ _ _ => rfl
theorem isLoad_ldbuio : IsLoad .ldbuio .byte true zextByte := fun _ _ _ _ => rfl
theorem isLoad_ldhio : IsLoad .ldhio .half true sextHalf := fun _ _ _ _ => rfl
theorem isLoad_ldhuio : IsLoad .ldhuio .half true zextHalf := fun _ _ _ _ => rfl
theorem isLoad_ldwio : IsLoad .ldwio .word true id := fun _ _ _ _ => rfl
theorem isStore_stb : IsStore .stb .byte false := fun _ _ _ _ => rfl
theorem isStore_sth : IsStore .sth .half false := fun _ _ _ _ => rfl
theorem isStore_stw : IsStore .stw .word false := fun _ _ _ _ => rfl
theorem isStore_stbio : IsStore .stbio .byte true := fun _ _ _ _ => rfl
theorem isStore_sthio : IsStore .sthio .half true := fun _ _ _ _ => rfl
theorem isStore_stwio : IsStore .stwio .word true := fun _ _ _ _ => rfl

/-! ## Loads from RAM -/

theorem loadInto_ram {s : State} {rB : Reg} {ea : Word} {size : Size} {io : Bool}
    {ext : Word → Word} (ram : RamAccess s ea size) : loadInto s rB ea size io ext =
      .next ((s.emit (accessEvents s .load ea io)).setReg rB (ext (s.mem.readSize ea size))) := by
  rw [loadInto, memRead_ram io ram]

theorem IsLoad.loadsRam {op : BitVec 6} {instr : Reg → Reg → BitVec 16 → Instr} {size : Size}
    {io : Bool} {ext : Word → Word} {value : Memory → Word → Word} (h : IsLoad instr size io ext)
    (row : ∀ w, decodeOp op w = .ok (instr (bField w) (aField w) (imm16Field w)))
    (extended : ∀ m a, ext (Memory.readSize m a size) = value m a) :
    LoadsRam op instr size io value := by
  refine ⟨decodesOp_of_row row, ?_⟩
  rintro rB rA imm16 s ea rfl ram
  rw [h, loadInto_ram ram, extended]
  exact ⟨_, rfl, onlyWritesReg_setReg (s.emit _) rB _⟩

/-- The low bits of a widened value are the value. -/
theorem extractLsb'_setWidth {n : Nat} (x : BitVec n) (h : n ≤ 32) :
    (x.setWidth 32).extractLsb' 0 n = x := by
  ext k hk
  simp [hk]
  omega

theorem sextByte_readSize (m : Memory) (a : Word) :
    sextByte (m.readSize a .byte) = (m.read a).signExtend 32 :=
  congrArg (BitVec.signExtend 32) (extractLsb'_setWidth (m.read a) (by decide))

theorem zextByte_readSize (m : Memory) (a : Word) :
    zextByte (m.readSize a .byte) = 0#24 ++ m.read a := by
  rw [zextByte, Memory.readSize, extractLsb'_setWidth _ (by decide),
    BitVec.setWidth_eq_append (by decide : 8 ≤ 32)]
  rfl

theorem sextHalf_readSize (m : Memory) (a : Word) :
    sextHalf (m.readSize a .half) = (m.read (a + 1#32) ++ m.read a).signExtend 32 :=
  congrArg (BitVec.signExtend 32)
    (extractLsb'_setWidth (m.read (a + 1#32) ++ m.read a) (by decide))

theorem zextHalf_readSize (m : Memory) (a : Word) :
    zextHalf (m.readSize a .half) = 0#16 ++ m.read (a + 1#32) ++ m.read a := by
  rw [zextHalf, Memory.readSize, extractLsb'_setWidth _ (by decide),
    BitVec.setWidth_eq_append (by decide : 16 ≤ 32), BitVec.append_assoc]

/-- Settles O39: the ten loads, each with its row and its extension of the bytes read. -/
theorem loadsFromRamReadTheirBytes : Obligations.LoadsFromRamReadTheirBytes :=
  ⟨isLoad_ldb.loadsRam (fun _ => rfl) sextByte_readSize,
    isLoad_ldbu.loadsRam (fun _ => rfl) zextByte_readSize,
    isLoad_ldh.loadsRam (fun _ => rfl) sextHalf_readSize,
    isLoad_ldhu.loadsRam (fun _ => rfl) zextHalf_readSize,
    isLoad_ldw.loadsRam (fun _ => rfl) fun _ _ => rfl,
    isLoad_ldbio.loadsRam (fun _ => rfl) sextByte_readSize,
    isLoad_ldbuio.loadsRam (fun _ => rfl) zextByte_readSize,
    isLoad_ldhio.loadsRam (fun _ => rfl) sextHalf_readSize,
    isLoad_ldhuio.loadsRam (fun _ => rfl) zextHalf_readSize,
    isLoad_ldwio.loadsRam (fun _ => rfl) fun _ _ => rfl⟩

/-! ## Stores to RAM -/

/-- The state after a store of `v` to RAM. -/
def State.afterStore (s : State) (ea v : Word) (size : Size) (io : Bool) : State :=
  { s.emit (accessEvents s .store ea io) with mem := s.mem.writeSize ea v size }

theorem storeFrom_ram {s : State} {rB : Reg} {ea : Word} {size : Size} {io : Bool}
    (ram : RamAccess s ea size) :
    storeFrom s rB ea size io = .next (s.afterStore ea (s.getReg rB) size io) :=
  memWrite_ram _ io ram

/-- Inside a wide write, byte `k` is byte `k` of the value (20_memory.md R68). -/
theorem Memory.read_writeSize_inside {m : Memory} (h : m.wf = true) (a v : Word) {size : Size}
    {k : Nat} (hk : k < size.bytes) :
    (m.writeSize a v size).read (a + BitVec.ofNat 32 k) = v.extractLsb' (8 * k) 8 := by
  obtain ⟨h1, h2, h3, h4, h5, h6⟩ := succ_addr_ne a
  rw [read_writeSize h]
  cases size with
  | byte =>
    obtain rfl : k = 0 := Nat.lt_one_iff.1 hk
    simp
  | half =>
    change k < 2 at hk
    interval_cases k <;> simp [h1.symm]
  | word =>
    change k < 4 at hk
    interval_cases k <;> simp [h1.symm, h2.symm, h3.symm, h4.symm, h5.symm, h6.symm]

/-- Outside a wide write nothing changes. -/
theorem Memory.read_writeSize_outside {m : Memory} (h : m.wf = true) (a v b : Word) {size : Size}
    (outside : ∀ k, k < size.bytes → b ≠ a + BitVec.ofNat 32 k) :
    (m.writeSize a v size).read b = m.read b := by
  have first : b ≠ a := by simpa using outside 0 (by cases size <;> decide)
  rw [read_writeSize h]
  cases size with
  | byte => simp [first]
  | half => simp [first, outside 1 (by decide)]
  | word => simp [first, outside 1 (by decide), outside 2 (by decide), outside 3 (by decide)]

theorem IsStore.storesRam {op : BitVec 6} {instr : Reg → Reg → BitVec 16 → Instr} {size : Size}
    {io : Bool} (h : IsStore instr size io)
    (row : ∀ w, decodeOp op w = .ok (instr (bField w) (aField w) (imm16Field w))) :
    StoresRam op instr size io := by
  refine ⟨decodesOp_of_row row, ?_⟩
  rintro rB rA imm16 s ea rfl ram wf
  rw [h, storeFrom_ram ram]
  refine ⟨_, rfl, fun k hk => Memory.read_writeSize_inside wf _ _ hk,
    fun a outside => Memory.read_writeSize_outside wf _ _ a outside, fun _ => rfl, rfl, rfl, ?_⟩
  simp [State.afterStore, SameOutsideRegs, State.getCtl, State.ipending]

/-- Settles O40: the six stores, each with its row. -/
theorem storesToRamChangeOnlyTheirBytes : Obligations.StoresToRamChangeOnlyTheirBytes :=
  ⟨isStore_stb.storesRam fun _ => rfl, isStore_sth.storesRam fun _ => rfl,
    isStore_stw.storesRam fun _ => rfl, isStore_stbio.storesRam fun _ => rfl,
    isStore_sthio.storesRam fun _ => rfl, isStore_stwio.storesRam fun _ => rfl⟩

/-! ## Bad accesses (20_memory.md R69 to R71) -/

theorem IsLoad.badAccessIsFatal {instr : Reg → Reg → BitVec 16 → Instr} {size : Size} {io : Bool}
    {ext : Word → Word} (h : IsLoad instr size io ext) : BadAccessIsFatal instr .load size := by
  rintro rB rA imm16 s ea why rfl (⟨rfl, misaligned⟩ | ⟨rfl, aligned, unmapped⟩)
  · rw [h, loadInto, memRead_misaligned io misaligned]
    rfl
  · rw [h, loadInto, memRead_unmapped io aligned unmapped]
    rfl

theorem IsStore.badAccessIsFatal {instr : Reg → Reg → BitVec 16 → Instr} {size : Size} {io : Bool}
    (h : IsStore instr size io) : BadAccessIsFatal instr .store size := by
  rintro rB rA imm16 s ea why rfl (⟨rfl, misaligned⟩ | ⟨rfl, aligned, unmapped⟩)
  · rw [h, storeFrom, memWrite_misaligned _ io misaligned]
    rfl
  · rw [h, storeFrom, memWrite_unmapped _ io aligned unmapped]
    rfl

/-- Settles O41: the ten loads and the six stores. -/
theorem badDataAccessIsFatal : Obligations.BadDataAccessIsFatal :=
  ⟨isLoad_ldb.badAccessIsFatal, isLoad_ldbu.badAccessIsFatal, isLoad_ldh.badAccessIsFatal,
    isLoad_ldhu.badAccessIsFatal, isLoad_ldw.badAccessIsFatal, isLoad_ldbio.badAccessIsFatal,
    isLoad_ldbuio.badAccessIsFatal, isLoad_ldhio.badAccessIsFatal, isLoad_ldhuio.badAccessIsFatal,
    isLoad_ldwio.badAccessIsFatal, isStore_stb.badAccessIsFatal, isStore_sth.badAccessIsFatal,
    isStore_stw.badAccessIsFatal, isStore_stbio.badAccessIsFatal, isStore_sthio.badAccessIsFatal,
    isStore_stwio.badAccessIsFatal⟩

/-! ## Accesses to devices (20_memory.md R64, R65, R76) -/

theorem IsLoad.narrowAccessRefused {instr : Reg → Reg → BitVec 16 → Instr} {size : Size} {io : Bool}
    {ext : Word → Word} (h : IsLoad instr size io ext) (narrow : size ≠ .word) :
    NarrowAccessRefused instr size := by
  rintro rB rA imm16 s ea k r rfl aligned hr hd
  rw [h, loadInto, memRead_device io aligned hr hd, deviceAccess_narrow narrow]
  rfl

theorem IsStore.narrowAccessRefused {instr : Reg → Reg → BitVec 16 → Instr} {size : Size}
    {io : Bool} (h : IsStore instr size io) (narrow : size ≠ .word) :
    NarrowAccessRefused instr size := by
  rintro rB rA imm16 s ea k r rfl aligned hr hd
  rw [h, storeFrom, memWrite_device _ io aligned hr hd, deviceAccess_narrow narrow]
  rfl

/-- Settles O42: the eight loads and the four stores of a byte or a halfword. -/
theorem narrowDeviceAccessIsRefused : Obligations.NarrowDeviceAccessIsRefused := by
  have byte : Size.byte ≠ .word := by decide
  have half : Size.half ≠ .word := by decide
  exact ⟨isLoad_ldb.narrowAccessRefused byte, isLoad_ldbu.narrowAccessRefused byte,
    isLoad_ldh.narrowAccessRefused half, isLoad_ldhu.narrowAccessRefused half,
    isLoad_ldbio.narrowAccessRefused byte, isLoad_ldbuio.narrowAccessRefused byte,
    isLoad_ldhio.narrowAccessRefused half, isLoad_ldhuio.narrowAccessRefused half,
    isStore_stb.narrowAccessRefused byte, isStore_sth.narrowAccessRefused half,
    isStore_stbio.narrowAccessRefused byte, isStore_sthio.narrowAccessRefused half⟩

section
variable {s : State} {rB : Reg} {ea : Word} {k : Nat} {r : Region} (io : Bool)
  (aligned : ea.toNat % 4 = 0) (wellFormed : s.configOk = true) (hr : s.resolve ea = some (k, r))
  (hd : r.dev ≠ .ram)
include aligned wellFormed hr hd

/-- A word load at a device is the read of its register. -/
theorem loadInto_device : loadInto s rB ea .word io id =
    .next (((s.emit (accessEvents s .load ea io)).applyDevice k r
      (r.dev.readReg (r.offset ea)).2).setReg rB (r.dev.readReg (r.offset ea)).1) := by
  rw [loadInto, memRead_device io aligned hr hd, deviceAccess_word wellFormed aligned hr]
  rfl

/-- A word store at a device is the write of its register. -/
theorem storeFrom_device : storeFrom s rB ea .word io =
    match r.dev.writeReg k (r.offset ea) (s.getReg rB) with
    | .error e => .refused e
    | .ok d => .next ((s.emit (accessEvents s .store ea io)).applyDevice k r d) := by
  rw [storeFrom, memWrite_device _ io aligned hr hd, deviceAccess_word wellFormed aligned hr]
  rfl

end

/-- An io form leaves no trace record (R84). -/
theorem emit_accessEvents_io (s : State) (kind : AccessKind) (ea : Word) :
    s.emit (accessEvents s kind ea true) = s := by
  simp [State.emit, accessEvents]

/-- Settles O43: the two word loads and the two word stores at a device. -/
theorem wordAccessReachesTheDeviceRegister : Obligations.WordAccessReachesTheDeviceRegister := by
  rintro s rB rA imm16 ea k off r rfl aligned wellFormed hr hd rfl
  refine ⟨?ldwio, ?ldw, fun d written => ⟨?stwio, ?stw⟩,
    fun e refused => ⟨?stwioRefused, ?stwRefused⟩⟩
  case ldwio =>
    rw [isLoad_ldwio, loadInto_device true aligned wellFormed hr hd, emit_accessEvents_io]
    rfl
  case ldw => exact loadInto_device false aligned wellFormed hr hd
  case stwio =>
    rw [isStore_stwio, storeFrom_device true aligned wellFormed hr hd, emit_accessEvents_io,
      Region.offset, written]
  case stw =>
    rw [isStore_stw, storeFrom_device false aligned wellFormed hr hd, Region.offset, written]
  case stwioRefused =>
    rw [isStore_stwio, storeFrom_device true aligned wellFormed hr hd, Region.offset, refused]
  case stwRefused =>
    rw [isStore_stw, storeFrom_device false aligned wellFormed hr hd, Region.offset, refused]

/-! ## A load after a store (20_memory.md R79; R297) -/

/-- A byte of an aligned word of RAM is in RAM. -/
theorem ramAccess_byte {s : State} {ea : Word} (wellFormed : s.configOk = true)
    (ram : RamAccess s ea .word) {k : Nat} (hk : k < 4) :
    RamAccess s (ea + BitVec.ofNat 32 k) .byte := by
  obtain ⟨inRam, aligned⟩ := ram
  refine ⟨?_, Nat.mod_one _⟩
  rwa [State.isRam, resolve_word wellFormed aligned hk, ← State.isRam]

/-- A load reads into a register other than 0 what is stored in RAM. -/
theorem IsLoad.exec_reads {instr : Reg → Reg → BitVec 16 → Instr} {size : Size} {io : Bool}
    {ext : Word → Word} (h : IsLoad instr size io ext) {s : State} {rD rA : Reg} {imm16 : BitVec 16}
    {ea : Word} (hea : s.getReg rA + imm16.signExtend 32 = ea) (ram : RamAccess s ea size)
    (hD : rD ≠ 0) :
    ∃ u, exec (instr rD rA imm16) s = .next u ∧ u.getReg rD = ext (s.mem.readSize ea size) := by
  rw [h, hea, loadInto_ram ram]
  exact ⟨_, rfl, (setReg_getReg_same _ rD _).trans (if_neg hD)⟩

/-- Settles O44: the store, the word load of the bytes it wrote, and the load of each byte. -/
theorem loadAfterStoreGivesTheStoredWord : Obligations.LoadAfterStoreGivesTheStoredWord := by
  rintro s rB rA rD rE imm16 ea k hea ram wellFormed wf hD hE hk
  have stored : exec (.stw rB rA imm16) s =
      .next (s.afterStore ea (s.getReg rB) .word false) := by
    rw [isStore_stw, ← hea, storeFrom_ram (hea ▸ ram)]
  have byteRam := ramAccess_byte wellFormed ram hk
  have byteAddress : ((s.afterStore ea (s.getReg rB) .word false).setReg rE
      (ea + BitVec.ofNat 32 k)).getReg rE + (0#16).signExtend 32 = ea + BitVec.ofNat 32 k := by
    rw [setReg_getReg_same, if_neg hE]
    exact BitVec.add_zero _
  obtain ⟨u, loaded, word⟩ := isLoad_ldw.exec_reads
    (s := s.afterStore ea (s.getReg rB) .word false) hea.symm ram hD
  obtain ⟨v, loadedByte, byte⟩ := isLoad_ldbu.exec_reads byteAddress byteRam hD
  refine ⟨_, u, v, stored, loaded, ?word, loadedByte, ?byte⟩
  case word => exact word.trans (Memory.readSize_writeSize wf ea (s.getReg rB) .word)
  case byte =>
    rw [byte, zextByte_readSize]
    exact congrArg _ (Memory.read_writeSize_inside (size := .word) wf ea (s.getReg rB) hk)

end Sys2Proof.Machine
end

section
/-! The devices (61_devices.md R362 to R407): a Timer's count and its register writes, serial
input, a ParallelIO's bits, and the display. -/

namespace Sys2Proof.Machine

/-! ## The Timer's count (R362, R371) -/

section
variable {p : TimerParams} {t : TimerState}

/-- A counting Timer that is not at 0 counts down and drives no line. -/
theorem onClock_counts (counting : t.counting = true) (more : t.counter ≠ 0#32) :
    t.onClock p = ({ t with counter := t.counter - 1#32 }, none) := by
  rw [TimerState.onClock, if_neg (by simp [counting]), if_neg more]

/-- A counting Timer at 0 times out. -/
theorem onClock_timesOut (counting : t.counting = true) (zero : t.counter = 0#32) :
    t.onClock p =
      ({ t with
          counter := t.period
          timeout := true
          run := p.alwaysRun || t.cont
          counting := p.alwaysRun || t.cont },
        if t.ito then some true else none) := by
  rw [TimerState.onClock, if_neg (by simp [counting]), if_pos zero]

/-- The Timer `n` clocks after its counter was full. -/
def TimerState.countedDown (t : TimerState) (n : Nat) : TimerState :=
  { t with counter := t.period - BitVec.ofNat 32 n }

theorem countedDown_zero (full : t.counter = t.period) : t.countedDown 0 = t := by
  obtain ⟨_, _, _, _, _, _, _, _⟩ := t
  simpa [TimerState.countedDown] using full.symm

/-- Before as many clocks as the period says, the counter is not at 0. -/
theorem onClock_countedDown (counting : t.counting = true) {n : Nat} (h : n < t.period.toNat) :
    (t.countedDown n).onClock p = (t.countedDown (n + 1), none) := by
  have more : (t.countedDown n).counter ≠ 0#32 := by
    simp only [TimerState.countedDown]
    bv_omega
  have next : t.period - BitVec.ofNat 32 n - 1#32 = t.period - BitVec.ofNat 32 (n + 1) := by
    rw [BitVec.sub_sub, ← BitVec.ofNat_add]
  rw [onClock_counts (t := t.countedDown n) counting more]
  simp only [TimerState.countedDown, next]

theorem countedDown_period_counter (t : TimerState) :
    (t.countedDown t.period.toNat).counter = 0#32 := by
  rw [TimerState.countedDown, BitVec.ofNat_toNat, BitVec.setWidth_eq, BitVec.sub_self]

/-- From a full counter, `n` clocks count down by `n`, up to the period. -/
theorem onClock_iterate (counting : t.counting = true) (full : t.counter = t.period) {n : Nat}
    (h : n ≤ t.period.toNat) :
    (fun u => (TimerState.onClock p u).1)^[n] t = t.countedDown n := by
  induction n with
  | zero => exact (countedDown_zero full).symm
  | succ n ih =>
    rw [Function.iterate_succ_apply', ih (Nat.le_of_lt h), onClock_countedDown counting h]

end

/-- Settles O45: the count to 0, and the timeout there. -/
theorem timerTimesOutAfterPeriodPlusOneClocks :
    Obligations.TimerTimesOutAfterPeriodPlusOneClocks := by
  intro p t counting full
  have last := onClock_iterate (p := p) counting full (Nat.le_refl t.period.toNat)
  have timeout := onClock_timesOut (p := p) (t := t.countedDown t.period.toNat) counting
    (countedDown_period_counter t)
  refine ⟨fun n h => onClock_iterate counting full h, fun n h => ?counts, ?timeout, ?line⟩
  case counts => rw [onClock_iterate counting full (Nat.le_of_lt h), onClock_countedDown counting h]
  case timeout =>
    rw [Function.iterate_succ_apply', last, timeout, full]
    rfl
  case line =>
    rw [last, timeout]
    rfl

/-! ## The Timer's register writes (R364 to R366) -/

section
variable (p : TimerParams) (t : TimerState)

/-- Everything a control write does, but for START with STOP where both have a meaning. -/
theorem writeControl_eq (v : Word)
    (h : ¬ (p.alwaysRun = false ∧ v.getLsbD 2 = true ∧ v.getLsbD 3 = true)) :
    t.writeControl p v = .ok ({ t with
        ito := v.getLsbD 0
        cont := v.getLsbD 1
        counting := if p.alwaysRun then t.counting
          else (v.getLsbD 2 || (t.counting && !v.getLsbD 3))
        run := if p.alwaysRun then t.run else (v.getLsbD 2 || (t.run && !v.getLsbD 3)) },
      some (t.timeout && v.getLsbD 0)) := by
  unfold TimerState.writeControl
  generalize v.getLsbD 2 = start at h ⊢
  generalize v.getLsbD 3 = stop at h ⊢
  cases always : p.alwaysRun with
  | true => simp [TimerState.line]
  | false =>
    cases start with
    | true =>
      obtain rfl : stop = false := by simpa [always] using h
      simp [TimerState.line]
    | false => cases stop <;> simp [TimerState.line]

/-- START with STOP is refused on a Timer that is not always running (U3). -/
theorem writeControl_refused {v : Word} (always : p.alwaysRun = false) (start : v.getLsbD 2 = true)
    (stop : v.getLsbD 3 = true) : t.writeControl p v = .error .timerStartAndStop := by
  simp [TimerState.writeControl, always, start, stop]

theorem writePeriod_fixed (period : Word) (fixed : p.fixedPeriod = true) :
    t.writePeriod p period = t := if_pos fixed

/-- A new period fills the counter, and stops a Timer that is not always running. -/
theorem writePeriod_free (period : Word) (free : p.fixedPeriod = false) :
    t.writePeriod p period =
      { t with
        period := period
        counter := period
        counting := p.alwaysRun && t.counting
        run := p.alwaysRun && t.run } := by
  cases always : p.alwaysRun <;> simp [TimerState.writePeriod, free, always]

/-- The period that a write of a half makes of the old one (R366). -/
def periodAfter (period : Word) (off : Nat) (v : Word) : Word :=
  if off = 8 then period.extractLsb' 16 16 ++ v.extractLsb' 0 16
  else v.extractLsb' 0 16 ++ period.extractLsb' 0 16

theorem writeReg_period (dev : Nat) {off : Nat} (v : Word) (h : off = 8 ∨ off = 12) :
    Device.writeReg (.timer p t) dev off v =
      .ok ⟨.timer p (t.writePeriod p (periodAfter t.period off v)), none, []⟩ := by
  rcases h with rfl | rfl <;> rfl

end

/-- The halves of a word made of two. -/
theorem extractLsb'_append_low (high low : BitVec 16) : (high ++ low).extractLsb' 0 16 = low := by
  ext k hk
  simp only [BitVec.getElem_extractLsb', BitVec.getLsbD_append]
  grind

theorem extractLsb'_append_high (high low : BitVec 16) :
    (high ++ low).extractLsb' 16 16 = high := by
  ext k hk
  simp only [BitVec.getElem_extractLsb', BitVec.getLsbD_append]
  grind

theorem periodAfter_low (period : Word) (off : Nat) (v : Word) :
    (periodAfter period off v).extractLsb' 0 16 =
      (if off = 8 then v else period).extractLsb' 0 16 := by
  unfold periodAfter
  split <;> exact extractLsb'_append_low _ _

theorem periodAfter_high (period : Word) (off : Nat) (v : Word) :
    (periodAfter period off v).extractLsb' 16 16 =
      if off = 8 then period.extractLsb' 16 16 else v.extractLsb' 0 16 := by
  unfold periodAfter
  split <;> exact extractLsb'_append_high _ _

/-- Settles O46: the status write, the control write and the period write. -/
theorem timerRegisterWrites : Obligations.TimerRegisterWrites := by
  intro p t dev v
  refine ⟨rfl, fun always start stop => ?refused, fun meaning => ?control, fun off half =>
    ⟨fun fixed => ?fixed, fun free => ⟨periodAfter t.period off v, periodAfter_low _ _ _,
      periodAfter_high _ _ _, ?free⟩⟩⟩
  case refused =>
    simp only [Device.writeReg, TimerState.writeReg, writeControl_refused p t always start stop]
  case control =>
    simp only [Device.writeReg, TimerState.writeReg, writeControl_eq p t v meaning]
  case fixed => rw [writeReg_period p t dev v half, writePeriod_fixed p t _ fixed]
  case free => rw [writeReg_period p t dev v half, writePeriod_free p t _ free]

/-! ## Serial input (R378, R383, R386) -/

/-- A pop takes the oldest byte. -/
theorem pop_snd (st : SerialState) : st.pop.2 = { st with fifo := st.fifo.drop 1 } := by
  obtain ⟨fifo, _, _, _⟩ := st
  cases fifo <;> rfl

theorem pop_fst (st : SerialState) : st.pop.1 = st.fifo.head? := by
  obtain ⟨fifo, _, _, _⟩ := st
  cases fifo <;> rfl

theorem readReg_serialPort (st : SerialState) : (Device.serialPort st).readReg 0 =
    (serialData st.fifo.head?, ⟨.serialPort { st with fifo := st.fifo.drop 1 },
      some (SerialState.line { st with fifo := st.fifo.drop 1 }), []⟩) := by
  simp only [Device.readReg, pop_snd, pop_fst]

theorem readReg_debugChannel (st : SerialState) : (Device.debugChannel st).readReg 0 =
    (debugData (st.fifo.drop 1).length st.fifo.head?,
      ⟨.debugChannel { st with fifo := st.fifo.drop 1 },
        some (SerialState.line { st with fifo := st.fifo.drop 1 }), []⟩) := by
  simp only [Device.readReg, pop_snd, pop_fst]

/-- Successive data reads take bytes from the front, for a device `port` of a serial state whose
data read does. -/
theorem readReg_iterate {port : SerialState → Device}
    (read : ∀ st, ((port st).readReg 0).2.dev = port { st with fifo := st.fifo.drop 1 })
    (st : SerialState) (k : Nat) : (fun d => (Device.readReg d 0).2.dev)^[k] (port st) =
      port { st with fifo := st.fifo.drop k } := by
  induction k with
  | zero => rfl
  | succ k ih => rw [Function.iterate_succ_apply', ih, read, List.drop_drop]

/-- The line after the read of byte `k` of `text` (R376). -/
theorem line_drop (st : SerialState) (text : List Byte) (k : Nat) :
    SerialState.line { st with fifo := text.drop (k + 1) } =
      ((st.rxIrqEn && decide (k + 1 < text.length)) || st.txPending) := by
  have left : (!(text.drop (k + 1)).isEmpty) = decide (k + 1 < text.length) := by
    rw [Bool.eq_iff_iff]
    simp
  rw [SerialState.line, left]

theorem serialData_some (b : Byte) : serialData (some b) = 0#24 ++ b := by
  rw [serialData, BitVec.setWidth_eq_append (by decide : 8 ≤ 32)]
  rfl

/-- The three fields of a DebugChannel's data register: RAVAIL, RVALID and the byte (R378). -/
theorem debugData_some (left : Nat) (b : Byte) :
    debugData left (some b) = BitVec.ofNat 16 (min left 0xFFFF) ++ 0x80#8 ++ b := by
  have available : min left 0xFFFF < 2 ^ 16 := by omega
  rw [debugData]
  generalize min left 0xFFFF = m at available
  have fits : m < 2 ^ 32 := by omega
  have shifted : m <<< 16 < 2 ^ 32 := by rw [Nat.shiftLeft_eq]; omega
  apply BitVec.eq_of_toNat_eq
  calc (b.setWidth 32 ||| bitAt true 15 ||| BitVec.ofNat 32 m <<< 16).toNat
      = b.toNat ||| 0x80 <<< 8 ||| m <<< 16 := by
        rw [BitVec.toNat_or, BitVec.toNat_or, BitVec.toNat_setWidth_of_le (by decide),
          BitVec.toNat_shiftLeft, BitVec.toNat_ofNat, Nat.mod_eq_of_lt fits,
          Nat.mod_eq_of_lt shifted]
        rfl
    _ = (m <<< 8 ||| 0x80) <<< 8 ||| b.toNat := by
        rw [Nat.shiftLeft_or_distrib, ← Nat.shiftLeft_add, Nat.or_comm _ (m <<< 16),
          Nat.or_comm b.toNat, Nat.or_assoc]
    _ = (BitVec.ofNat 16 m ++ 0x80#8 ++ b).toNat := by
        rw [BitVec.toNat_append, BitVec.toNat_append, BitVec.toNat_ofNat,
          Nat.mod_eq_of_lt available]
        rfl

/-- Settles O47: the `k`-th read of each kind of port. -/
theorem serialInputIsReadInOrder : Obligations.SerialInputIsReadInOrder := by
  intro st text empty
  have received : st.receive text = { st with fifo := text } := by
    rw [SerialState.receive, empty, List.nil_append]
  rw [received]
  refine ⟨fun k h => ?port, fun k h => ?channel, ?emptyPort, ?emptyChannel⟩
  case port =>
    rw [readReg_iterate (port := .serialPort)
      (fun st => congrArg (·.2.dev) (readReg_serialPort st)), readReg_serialPort]
    simp only [List.drop_drop, List.head?_drop, List.getElem?_eq_getElem h, serialData_some,
      line_drop]
  case channel =>
    rw [readReg_iterate (port := .debugChannel)
      (fun st => congrArg (·.2.dev) (readReg_debugChannel st)), readReg_debugChannel]
    simp only [List.drop_drop, List.head?_drop, List.getElem?_eq_getElem h, debugData_some,
      line_drop, List.length_drop]
  case emptyPort => rw [readReg_serialPort, empty]; rfl
  case emptyChannel => rw [readReg_debugChannel, empty]; rfl

/-! ## The ParallelIO (R395 to R400) -/

/-- A word has a bit in common with another when some bit is set in both. -/
theorem and_ne_zero_iff {x y : Word} :
    x &&& y ≠ 0#32 ↔ ∃ k : Line, x.getLsbD k.val = true ∧ y.getLsbD k.val = true := by
  refine ⟨fun nonzero => ?common, ?nonzero⟩
  case common =>
    by_contra apart
    refine nonzero (BitVec.eq_of_getLsbD_eq fun k hk => ?_)
    rw [BitVec.getLsbD_and, BitVec.getLsbD_zero, ← Bool.not_eq_true, Bool.and_eq_true]
    exact fun both => apart ⟨⟨k, hk⟩, both⟩
  case nonzero =>
    rintro ⟨k, hx, hy⟩ zero
    have clear : (x &&& y).getLsbD k.val = false := by rw [zero, BitVec.getLsbD_zero]
    rw [BitVec.getLsbD_and, hx, hy] at clear
    cases clear

theorem pioLine_iff (p : PioState) : p.line = true ↔
    ∃ k : Line, p.edgeCapture.getLsbD k.val = true ∧ p.irqMask.getLsbD k.val = true := by
  rw [PioState.line, decide_eq_true_iff, and_ne_zero_iff]

/-- A captured bit raises the line function exactly when it is unmasked (R397, R400). -/
theorem pioLine_updateData (p : PioState) (d : Word) (bit : Line) :
    (p.updateData d bit).1.line = (p.irqMask.getLsbD bit.val || p.line) := by
  rw [Bool.eq_iff_iff, Bool.or_eq_true, pioLine_iff, pioLine_iff]
  simp only [PioState.updateData, assertLine_bit _ _ _ (Fin.isLt _), Bool.or_eq_true,
    decide_eq_true_eq, or_and_right, exists_or, ← Fin.ext_iff, exists_eq_left]

/-- Settles O48: the external input and each register write. -/
theorem parallelIoCapturesAndForwardsBits : Obligations.ParallelIoCapturesAndForwardsBits := by
  intro p d v bit dev
  refine ⟨⟨_, rfl, rfl, rfl, assertLine_bit p.edgeCapture bit, pioLine_updateData p d bit⟩, rfl,
    ⟨pioEvents dev v, rfl, ?length, fun k hk => ?event⟩, fun dir => ⟨?mask, rfl⟩⟩
  case length => simp [pioEvents]
  case event => simp [pioEvents, hk]
  case mask =>
    have line : PioState.line { p with irqMask := v } =
        decide (∃ k : Line, p.edgeCapture.getLsbD k.val = true ∧ v.getLsbD k.val = true) := by
      rw [Bool.eq_iff_iff, pioLine_iff, decide_eq_true_iff]
    rw [← line]
    rfl

/-! ## The display (R406, R407) -/

/-- The next cursor of a cursor inside the text. -/
theorem succ_mod_eq {cursor len : Nat} (h : cursor < len) :
    (cursor + 1) % len = if cursor + 1 = len then 0 else cursor + 1 := by
  split
  · next last => rw [last, Nat.mod_self]
  · next more => exact Nat.mod_eq_of_lt (by omega)

/-- Settles O49: the commands in order, and a character at the cursor. -/
theorem displayCommandsAndCharacters : Obligations.DisplayCommandsAndCharacters := by
  intro len dev l v full inside
  refine ⟨?command, l.text.set l.cursor (v.extractLsb' 0 8), ?length, fun i hi => ?char, ?write⟩
  case command =>
    simp only [Device.writeReg, LcdState.command]
    split_ifs <;> rfl
  case length => rw [List.length_set, full]
  case char =>
    by_cases own : i = l.cursor
    · rw [if_pos own, own, List.getElem?_set_self (full ▸ inside)]
    · rw [if_neg own, List.getElem?_set_ne (Ne.symm own)]
  case write =>
    simp only [Device.writeReg, LcdState.putChar, succ_mod_eq inside]

end Sys2Proof.Machine
end

section
/-! Loading an image (70_reset_and_hazards.md R466). The segments are copied in order, so a byte
reads as the last segment that covers it says, and as before where none does; and in a well-formed
configuration no segment in RAM runs past the end of the addresses. -/

namespace Sys2Proof.Machine

/-! ## Segments -/

theorem Segment.fits_iff {g : Segment} {bus : List Region} : g.fits bus = true ↔ g.InRam bus := by
  simp only [Segment.fits, Segment.InRam, List.any_eq_true, Bool.and_eq_true, decide_eq_true_eq,
    and_assoc]
  rfl

/-- The supplied bytes are no more than the segment's, and none is past the last address. -/
def Segment.Loadable (g : Segment) : Prop :=
  g.bytes.length ≤ g.memlen ∧ g.addr.toNat + g.memlen ≤ 2 ^ 32

theorem Segment.InRam.loadable {g : Segment} {s : State} (h : g.InRam s.bus)
    (wellFormed : s.configOk = true) (supplied : g.bytes.length ≤ g.memlen) : g.Loadable := by
  obtain ⟨r, hr, -, -, inside⟩ := h
  obtain ⟨-, -, -, placed⟩ := placed_of_configOk wellFormed hr
  exact ⟨supplied, inside.trans placed⟩

/-- A segment's byte: the supplied one, or zero past them (R466 (2)). -/
theorem Segment.getElem_contents {g : Segment} {k : Nat} (hk : k < g.contents.length) :
    g.contents[k] = if h : k < g.bytes.length then g.bytes[k] else 0#8 := by
  simp only [Segment.contents, List.getElem_append, List.getElem_replicate]

/-! ## One segment -/

section
variable {m : Memory} {g : Segment} (wf : m.wf = true) (loadable : g.Loadable)
include wf loadable

/-- The copy leaves what the segment does not cover. -/
theorem Memory.read_writeSegment_outside {a : Word} (outside : ¬ g.Covers a) :
    (m.writeBytes g.addr g.contents).read a = m.read a := by
  obtain ⟨supplied, bounded⟩ := loadable
  have length := Segment.contents_length supplied
  rw [read_writeBytes _ _ _ wf (by omega)]
  refine dif_neg fun ⟨above, below⟩ => outside ⟨above, ?_⟩
  omega

/-- The copy puts byte `k` of the segment at its address. -/
theorem Memory.read_writeSegment_inside {k : Nat} (hk : k < g.memlen) :
    (m.writeBytes g.addr g.contents).read (g.addr + BitVec.ofNat 32 k) =
      if h : k < g.bytes.length then g.bytes[k] else 0#8 := by
  obtain ⟨supplied, bounded⟩ := loadable
  have length := Segment.contents_length supplied
  have address : (g.addr + BitVec.ofNat 32 k).toNat = g.addr.toNat + k := by
    rw [BitVec.toNat_add, BitVec.toNat_ofNat, Nat.mod_eq_of_lt (a := k) (by omega),
      Nat.mod_eq_of_lt (by omega)]
  have offset : (g.addr + BitVec.ofNat 32 k).toNat - g.addr.toNat = k := by omega
  rw [read_writeBytes _ _ _ wf (by omega), dif_pos ⟨by omega, by omega⟩]
  simp only [offset]
  exact Segment.getElem_contents _

end

/-! ## All segments -/

theorem Memory.loadSegments_append : ∀ (first later : List Segment) (m : Memory),
    m.loadSegments (first ++ later) = (m.loadSegments first).loadSegments later
  | [], _, _ => rfl
  | _ :: first, later, _ => loadSegments_append first later _

/-- What no segment covers is as before. -/
theorem Memory.read_loadSegments_outside {a : Word} : ∀ {segments : List Segment} {m : Memory},
    m.wf = true → (∀ g ∈ segments, g.Loadable) → (∀ g ∈ segments, ¬ g.Covers a) →
    (m.loadSegments segments).read a = m.read a
  | [], _, _, _, _ => rfl
  | g :: rest, m, wf, loadable, outside => by
    obtain ⟨loadG, loadRest⟩ := List.forall_mem_cons.1 loadable
    obtain ⟨outG, outRest⟩ := List.forall_mem_cons.1 outside
    rw [loadSegments, read_loadSegments_outside (writeBytes_wf _ wf _) loadRest outRest,
      read_writeSegment_outside wf loadG outG]

/-- Where no later segment covers it, a byte is its segment's. -/
theorem Memory.read_loadSegments_inside {m : Memory} (wf : m.wf = true) {first later : List Segment}
    {g : Segment} (loadable : ∀ g' ∈ first ++ g :: later, g'.Loadable) {k : Nat} (hk : k < g.memlen)
    (outside : ∀ g' ∈ later, ¬ g'.Covers (g.addr + BitVec.ofNat 32 k)) :
    (m.loadSegments (first ++ g :: later)).read (g.addr + BitVec.ofNat 32 k) =
      if h : k < g.bytes.length then g.bytes[k] else 0#8 := by
  obtain ⟨-, loadG, loadLater⟩ := by
    simpa only [List.forall_mem_append, List.forall_mem_cons] using loadable
  have loaded := loadSegments_wf first wf
  rw [loadSegments_append, loadSegments,
    read_loadSegments_outside (writeBytes_wf _ loaded _) loadLater outside,
    read_writeSegment_inside loaded loadG hk]

/-! ## The event -/

section
variable {s : State} {segments : List Segment} (entry : Word) (stmts : List Word)
  (supplied : ∀ g ∈ segments, g.bytes.length ≤ g.memlen)
include supplied

/-- An image whose file lengths are in order is loaded when its segments fit, and fails else. -/
theorem applyHost_loadImage : applyHost (.loadImage segments entry stmts) s =
    if segments.all (fun g => g.fits s.bus) then .done (s.loadImage segments entry stmts)
    else .failed := by
  have admitted : segments.any (fun g => decide (g.memlen < g.bytes.length)) = false := by
    simpa using supplied
  rw [applyHost, admitted]
  rfl

end

/-- Settles O55: the check of all segments, the reset, and the bytes after the copy. -/
theorem loadImageIsAllOrNothing : Obligations.LoadImageIsAllOrNothing := by
  intro s segments entry stmts wellFormed wf supplied
  rw [applyHost_loadImage entry stmts supplied]
  refine ⟨fun ⟨g, hg, outside⟩ => ?fails, fun inRam => ?loads⟩
  case fails =>
    refine if_neg fun all => outside ?_
    exact Segment.fits_iff.1 (List.all_eq_true.1 all g hg)
  case loads =>
    have fit : segments.all (fun g => g.fits s.bus) = true :=
      List.all_eq_true.2 fun g hg => Segment.fits_iff.2 (inRam g hg)
    have loadable : ∀ g ∈ segments, g.Loadable := fun g hg =>
      (inRam g hg).loadable wellFormed (supplied g hg)
    refine ⟨s.resetEvent, s.loadImage segments entry stmts, rfl, resetLeaves_resetEvent s,
      if_pos fit, rfl, Memory.loadSegments_wf segments wf, ?covered,
      fun a outside => Memory.read_loadSegments_outside wf loadable outside⟩
    case covered =>
      rintro first g later k rfl hk outside
      exact Memory.read_loadSegments_inside wf loadable hk outside

end Sys2Proof.Machine
end
